-- ==== Sys2Proof/Word.lean ====
section
/-! DEFINITION. The word types of the core (00_scope.md R7): 8-bit bytes and 16-bit words. -/

namespace Sys2Proof

/-- An 8-bit register, an opcode, or a byte of either address space (R7). -/
abbrev Byte := BitVec 8

/-- A register pair, SP, PC, or a data-bus address (R7). -/
abbrev Word := BitVec 16

end Sys2Proof
end

