-- ==== Sys2Proof/Machine/Alu.lean ====
section
/-! DEFINITION. The operations of the ALU (41_alu_flags.md R140 to R149): pure functions of their arguments. Sums are
computed exactly and narrowed at the end. -/

namespace Sys2Proof.Machine

/-- One bit as a byte. -/
def bitByte (b : Bool) : Byte := if b then 1 else 0

/-- INC8 (R141): the result and the carry out of bit 3. -/
def inc8 (v : Byte) : Byte × Bool :=
  (BitVec.ofNat 8 (v.toNat + 1), decide ((v &&& 0x0F).toNat + 1 > 0x0F))

/-- DEC8 (R142): the result and the borrow from bit 4. -/
def dec8 (v : Byte) : Byte × Bool :=
  (BitVec.ofInt 8 ((v.toNat : Int) - 1), decide ((v &&& 0x0F).toNat < 1))

/-- ADD16 (R144): the result, the carry out of bit 11 and the carry out of bit 15. -/
def add16 (x y : Word) : Word × Bool × Bool :=
  let sum := x.toNat + y.toNat
  (BitVec.ofNat 16 sum, decide ((x &&& 0x0FFF).toNat + (y &&& 0x0FFF).toNat > 0x0FFF), decide (sum > 0xFFFF))

/-- INC16 (R145). -/
def inc16 (v : Word) : Word := BitVec.ofNat 16 (v.toNat + 1)

/-- DEC16 (R145). -/
def dec16 (v : Word) : Word := BitVec.ofInt 16 ((v.toNat : Int) - 1)

/-- RLC8 (R146): bit 7 goes to bit 0 and to the carry output. -/
def rlc8 (v : Byte) : Byte × Bool := ((v <<< 1) ||| bitByte (v.getLsbD 7), v.getLsbD 7)

/-- RRC8 (R147): bit 0 goes to bit 7 and to the carry output. -/
def rrc8 (v : Byte) : Byte × Bool := ((v >>> 1) ||| (bitByte (v.getLsbD 0) <<< 7), v.getLsbD 0)

/-- RL8 (R148): the carry enters bit 0, bit 7 leaves to the carry output. -/
def rl8 (v : Byte) (cin : Bool) : Byte × Bool := ((v <<< 1) ||| bitByte cin, v.getLsbD 7)

/-- RR8 (R149): the carry enters bit 7, bit 0 leaves to the carry output. -/
def rr8 (v : Byte) (cin : Bool) : Byte × Bool := ((v >>> 1) ||| (bitByte cin <<< 7), v.getLsbD 0)

end Sys2Proof.Machine
end

