-- ==== Sys2Proof/Syntax.lean ====
section
/-! DEFINITION. The syntax of the core: register names (10_state.md R21, R22), instruction formats (30_encoding.md R91)
and one constructor of Instr per row of spec/opcode_table.json (R97). -/

namespace Sys2Proof

/-- The eight 8-bit registers (R21). -/
inductive Reg8 where
  | a | f | b | c | d | e | h | l
  deriving DecidableEq, Repr

/-- The four register pairs (R22); the first letter names the high half. -/
inductive Pair where
  | af | bc | de | hl
  deriving DecidableEq, Repr

/-- The instruction formats of R91. -/
inductive Format where
  | op | opD8 | opR8 | opD16 | opA16 | stop2
  deriving DecidableEq, Repr

/-- The length of a format in bytes, by which PC advances (R90, R91). -/
def Format.length : Format → Nat
  | .op => 1 | .opD8 => 2 | .opR8 => 2 | .opD16 => 3 | .opA16 => 3 | .stop2 => 2

/-- How many bytes of a format are fetched: all of them, but for `stop`, whose second byte is not (R91, R123). -/
def Format.fetched : Format → Nat
  | .op => 1 | .opD8 => 2 | .opR8 => 2 | .opD16 => 3 | .opA16 => 3 | .stop2 => 1

/-- The admitted instructions, one constructor per row of the dispatch table (R97), in the table's order. Every
operand has the width its format gives it, so no term of this type is ill-formed. -/
inductive Instr where
  /-- 0x00 `nop` (R160). -/
  | nop
  /-- 0x01 `ld bc,d16` (R176). -/
  | ldBcD16 (d16 : Word)
  /-- 0x02 `ld (bc),a` (R250). -/
  | ldIndBcA
  /-- 0x03 `inc bc` (R200). -/
  | incBc
  /-- 0x04 `inc b` (R210). -/
  | incB
  /-- 0x05 `dec b` (R220). -/
  | decB
  /-- 0x06 `ld b,d8` (R170). -/
  | ldBD8 (d8 : Byte)
  /-- 0x07 `rlca` (R280). -/
  | rlca
  /-- 0x08 `ld (a16),sp` (R256). -/
  | ldIndA16Sp (a16 : Word)
  /-- 0x09 `add hl,bc` (R240). -/
  | addHlBc
  /-- 0x0A `ld a,(bc)` (R251). -/
  | ldAIndBc
  /-- 0x0B `dec bc` (R203). -/
  | decBc
  /-- 0x0C `inc c` (R211). -/
  | incC
  /-- 0x0D `dec c` (R221). -/
  | decC
  /-- 0x0E `ld c,d8` (R171). -/
  | ldCD8 (d8 : Byte)
  /-- 0x0F `rrca` (R281). -/
  | rrca
  /-- 0x10 `stop` (R161). -/
  | stop
  /-- 0x11 `ld de,d16` (R177). -/
  | ldDeD16 (d16 : Word)
  /-- 0x12 `ld (de),a` (R252). -/
  | ldIndDeA
  /-- 0x13 `inc de` (R201). -/
  | incDe
  /-- 0x14 `inc d` (R212). -/
  | incD
  /-- 0x15 `dec d` (R222). -/
  | decD
  /-- 0x16 `ld d,d8` (R172). -/
  | ldDD8 (d8 : Byte)
  /-- 0x17 `rla` (R282). -/
  | rla
  /-- 0x18 `jr r8` (R270). -/
  | jrR8 (r8 : Byte)
  /-- 0x19 `add hl,de` (R241). -/
  | addHlDe
  /-- 0x1A `ld a,(de)` (R253). -/
  | ldAIndDe
  /-- 0x1B `dec de` (R204). -/
  | decDe
  /-- 0x1C `inc e` (R213). -/
  | incE
  /-- 0x1D `dec e` (R223). -/
  | decE
  /-- 0x1E `ld e,d8` (R173). -/
  | ldED8 (d8 : Byte)
  /-- 0x1F `rra` (R283). -/
  | rra
  /-- 0x20 `jr nz,r8` (R271). -/
  | jrNzR8 (r8 : Byte)
  /-- 0x21 `ld hl,d16` (R178). -/
  | ldHlD16 (d16 : Word)
  /-- 0x22 `ld (hl+),a` (R254). -/
  | ldIndHlIncA
  /-- 0x23 `inc hl` (R202). -/
  | incHl
  /-- 0x24 `inc h` (R214). -/
  | incH
  /-- 0x25 `dec h` (R224). -/
  | decH
  /-- 0x26 `ld h,d8` (R174). -/
  | ldHD8 (d8 : Byte)
  /-- 0x29 `add hl,hl` (R242). -/
  | addHlHl
  /-- 0x2A `ld a,(hl+)` (R255). -/
  | ldAIndHlInc
  /-- 0x2B `dec hl` (R205). -/
  | decHl
  /-- 0x2C `inc l` (R215). -/
  | incL
  /-- 0x2D `dec l` (R225). -/
  | decL
  /-- 0x2E `ld l,d8` (R175). -/
  | ldLD8 (d8 : Byte)
  deriving DecidableEq, Repr

/-- The format of each instruction (the format column of R97). -/
def Instr.format : Instr → Format
  | .nop => .op
  | .ldBcD16 _ => .opD16
  | .ldIndBcA => .op
  | .incBc => .op
  | .incB => .op
  | .decB => .op
  | .ldBD8 _ => .opD8
  | .rlca => .op
  | .ldIndA16Sp _ => .opA16
  | .addHlBc => .op
  | .ldAIndBc => .op
  | .decBc => .op
  | .incC => .op
  | .decC => .op
  | .ldCD8 _ => .opD8
  | .rrca => .op
  | .stop => .stop2
  | .ldDeD16 _ => .opD16
  | .ldIndDeA => .op
  | .incDe => .op
  | .incD => .op
  | .decD => .op
  | .ldDD8 _ => .opD8
  | .rla => .op
  | .jrR8 _ => .opR8
  | .addHlDe => .op
  | .ldAIndDe => .op
  | .decDe => .op
  | .incE => .op
  | .decE => .op
  | .ldED8 _ => .opD8
  | .rra => .op
  | .jrNzR8 _ => .opR8
  | .ldHlD16 _ => .opD16
  | .ldIndHlIncA => .op
  | .incHl => .op
  | .incH => .op
  | .decH => .op
  | .ldHD8 _ => .opD8
  | .addHlHl => .op
  | .ldAIndHlInc => .op
  | .decHl => .op
  | .incL => .op
  | .decL => .op
  | .ldLD8 _ => .opD8

/-- The length of an instruction in bytes (the len column of R97). -/
def Instr.length (i : Instr) : Nat := i.format.length

/-- The instruction families of files 42 to 48, parted where their effects part. -/
inductive Family where
  | noOp | stop | loadR8 | loadPair | incPair | decPair | incR8 | decR8 | addHl | storeA | loadA | storeSp | jump | rotate
  deriving DecidableEq, Repr

/-- The family of each instruction. -/
def Instr.family : Instr → Family
  | .nop => .noOp
  | .ldBcD16 _ => .loadPair
  | .ldIndBcA => .storeA
  | .incBc => .incPair
  | .incB => .incR8
  | .decB => .decR8
  | .ldBD8 _ => .loadR8
  | .rlca => .rotate
  | .ldIndA16Sp _ => .storeSp
  | .addHlBc => .addHl
  | .ldAIndBc => .loadA
  | .decBc => .decPair
  | .incC => .incR8
  | .decC => .decR8
  | .ldCD8 _ => .loadR8
  | .rrca => .rotate
  | .stop => .stop
  | .ldDeD16 _ => .loadPair
  | .ldIndDeA => .storeA
  | .incDe => .incPair
  | .incD => .incR8
  | .decD => .decR8
  | .ldDD8 _ => .loadR8
  | .rla => .rotate
  | .jrR8 _ => .jump
  | .addHlDe => .addHl
  | .ldAIndDe => .loadA
  | .decDe => .decPair
  | .incE => .incR8
  | .decE => .decR8
  | .ldED8 _ => .loadR8
  | .rra => .rotate
  | .jrNzR8 _ => .jump
  | .ldHlD16 _ => .loadPair
  | .ldIndHlIncA => .storeA
  | .incHl => .incPair
  | .incH => .incR8
  | .decH => .decR8
  | .ldHD8 _ => .loadR8
  | .addHlHl => .addHl
  | .ldAIndHlInc => .loadA
  | .decHl => .decPair
  | .incL => .incR8
  | .decL => .decR8
  | .ldLD8 _ => .loadR8

end Sys2Proof
end

