-- ==== Sys2Proof/WellFormed.lean ====
section
/-! DEFINITION. What the core accepts from outside: the opcodes it admits (30_encoding.md R97, R98), the byte strings
that are one whole instruction (R90, R91), and a program a reset accepts (60_exceptions.md R305). A term of Instr needs
no check: its operands have their widths in the type. -/

namespace Sys2Proof

/-- The admitted opcodes, written from the complement R98 lists: 0x27, 0x28, 0x2F and 0x30 to 0xFF have no entry. -/
def admittedOpcode (op : Byte) : Bool :=
  op != 0x27 && op != 0x28 && op != 0x2F && decide (op.toNat < 0x30)

/-- The length an admitted opcode gives its instruction (R90: 3 for the 16-bit-immediate operations, 2 for the
8-bit-immediate ones and for `stop`, else 1), by the regular layout of R92. -/
def opcodeLength (op : Byte) : Nat :=
  if op = 0x01 ∨ op = 0x11 ∨ op = 0x21 ∨ op = 0x08 then 3
  else if op = 0x10 ∨ op = 0x18 ∨ op = 0x20 ∨ op &&& 0x07 = 0x06 then 2
  else 1

/-- The bytes are one whole instruction: an admitted opcode followed by exactly its operand bytes. -/
def wfEncoding : List Byte → Bool
  | [] => false
  | op :: rest => admittedOpcode op && rest.length + 1 == opcodeLength op

/-- A program a reset accepts: at least one byte (70_reset_and_hazards.md R331). -/
def wfProgram (prog : List Byte) : Bool := !prog.isEmpty

end Sys2Proof
end

