-- ==== Sys2Proof/Decode.lean ====
section
/-! DEFINITION. Dispatch, decoding and encoding (30_encoding.md R90 to R101). One decoder serves byte lists and the
core's own fetch: it takes the bytes through a function from offset to byte. -/

namespace Sys2Proof

/-- `hi8 : lo8` of 00_scope.md R10, the 16-bit value with the first byte high. -/
def joinBytes (hi lo : Byte) : Word := hi ++ lo

/-- Bits 15..8 of a word. -/
def hiByte (w : Word) : Byte := w.extractLsb' 8 8

/-- Bits 7..0 of a word. -/
def loByte (w : Word) : Byte := w.extractLsb' 0 8

/-- An entry of the dispatch table: the instruction, waiting for the operand bytes of its format (R91). -/
inductive Entry where
  | op (i : Instr)
  | stop2 (i : Instr)
  | d8 (mk : Byte → Instr)
  | r8 (mk : Byte → Instr)
  | d16 (mk : Word → Instr)
  | a16 (mk : Word → Instr)

/-- Row 0x0 of the dispatch table (R97). -/
def dispatchRow0 : List (Byte × Entry) :=
  [ (0x00, .op .nop)
  , (0x01, .d16 .ldBcD16)
  , (0x02, .op .ldIndBcA)
  , (0x03, .op .incBc)
  , (0x04, .op .incB)
  , (0x05, .op .decB)
  , (0x06, .d8 .ldBD8)
  , (0x07, .op .rlca)
  , (0x08, .a16 .ldIndA16Sp)
  , (0x09, .op .addHlBc)
  , (0x0A, .op .ldAIndBc)
  , (0x0B, .op .decBc)
  , (0x0C, .op .incC)
  , (0x0D, .op .decC)
  , (0x0E, .d8 .ldCD8)
  , (0x0F, .op .rrca) ]

/-- Row 0x1 of the dispatch table (R97). -/
def dispatchRow1 : List (Byte × Entry) :=
  [ (0x10, .stop2 .stop)
  , (0x11, .d16 .ldDeD16)
  , (0x12, .op .ldIndDeA)
  , (0x13, .op .incDe)
  , (0x14, .op .incD)
  , (0x15, .op .decD)
  , (0x16, .d8 .ldDD8)
  , (0x17, .op .rla)
  , (0x18, .r8 .jrR8)
  , (0x19, .op .addHlDe)
  , (0x1A, .op .ldAIndDe)
  , (0x1B, .op .decDe)
  , (0x1C, .op .incE)
  , (0x1D, .op .decE)
  , (0x1E, .d8 .ldED8)
  , (0x1F, .op .rra) ]

/-- Row 0x2 of the dispatch table (R97). -/
def dispatchRow2 : List (Byte × Entry) :=
  [ (0x20, .r8 .jrNzR8)
  , (0x21, .d16 .ldHlD16)
  , (0x22, .op .ldIndHlIncA)
  , (0x23, .op .incHl)
  , (0x24, .op .incH)
  , (0x25, .op .decH)
  , (0x26, .d8 .ldHD8)
  , (0x29, .op .addHlHl)
  , (0x2A, .op .ldAIndHlInc)
  , (0x2B, .op .decHl)
  , (0x2C, .op .incL)
  , (0x2D, .op .decL)
  , (0x2E, .d8 .ldLD8) ]

/-- The dispatch table: 45 rows keyed on the whole opcode byte (R92, R97). -/
def dispatchTable : List (Byte × Entry) := dispatchRow0 ++ dispatchRow1 ++ dispatchRow2

/-- The lookup of R122; it depends on the opcode alone. -/
def dispatch (op : Byte) : Option Entry := dispatchTable.lookup op

/-- What decoding gives. -/
inductive DecodeResult where
  /-- An admitted instruction with its operands. -/
  | instr (i : Instr)
  /-- An opcode without an entry (R98): no operand byte was looked at. -/
  | unimplemented (op : Byte)
  /-- The byte at this offset could not be fetched; the opcode, if it was. -/
  | outOfBounds (offset : Nat) (op : Option Byte)
  deriving DecidableEq, Repr

/-- The operand fetch of R123 for a dispatch entry: high byte first (R94), nothing for OP and STOP2. -/
def decodeOperands (byteAt : Nat → Option Byte) (op : Byte) : Entry → DecodeResult
  | .op i => .instr i
  | .stop2 i => .instr i
  | .d8 mk | .r8 mk =>
    match byteAt 1 with
    | none => .outOfBounds 1 (some op)
    | some b1 => .instr (mk b1)
  | .d16 mk | .a16 mk =>
    match byteAt 1 with
    | none => .outOfBounds 1 (some op)
    | some b1 =>
      match byteAt 2 with
      | none => .outOfBounds 2 (some op)
      | some b2 => .instr (mk (joinBytes b1 b2))

/-- Opcode fetch, dispatch and operand fetch in the order of R121 to R123; `byteAt k` is the byte at offset k from the
opcode, none where it cannot be fetched. Total: every opcode byte is an instruction or unimplemented (R101). -/
def decodeAt (byteAt : Nat → Option Byte) : DecodeResult :=
  match byteAt 0 with
  | none => .outOfBounds 0 none
  | some op =>
    match dispatch op with
    | none => .unimplemented op
    | some entry => decodeOperands byteAt op entry

/-- Decoding of a byte list; bytes after the instruction are not looked at. -/
def decode (bytes : List Byte) : DecodeResult := decodeAt fun k => bytes[k]?

/-- A 16-bit operand in the instruction stream, high byte first (R67, R94). -/
def encodeWord (w : Word) : List Byte := [hiByte w, loByte w]

/-- The bytes of an instruction, from the opcode column of R97 and the formats of R91. The ignored second byte of
`stop` is written 0x00 (DESIGN CHOICE, log 10). -/
def encode : Instr → List Byte
  | .nop => [0x00]
  | .ldBcD16 v => 0x01 :: encodeWord v
  | .ldIndBcA => [0x02]
  | .incBc => [0x03]
  | .incB => [0x04]
  | .decB => [0x05]
  | .ldBD8 v => [0x06, v]
  | .rlca => [0x07]
  | .ldIndA16Sp v => 0x08 :: encodeWord v
  | .addHlBc => [0x09]
  | .ldAIndBc => [0x0A]
  | .decBc => [0x0B]
  | .incC => [0x0C]
  | .decC => [0x0D]
  | .ldCD8 v => [0x0E, v]
  | .rrca => [0x0F]
  | .stop => [0x10, 0x00]
  | .ldDeD16 v => 0x11 :: encodeWord v
  | .ldIndDeA => [0x12]
  | .incDe => [0x13]
  | .incD => [0x14]
  | .decD => [0x15]
  | .ldDD8 v => [0x16, v]
  | .rla => [0x17]
  | .jrR8 v => [0x18, v]
  | .addHlDe => [0x19]
  | .ldAIndDe => [0x1A]
  | .decDe => [0x1B]
  | .incE => [0x1C]
  | .decE => [0x1D]
  | .ldED8 v => [0x1E, v]
  | .rra => [0x1F]
  | .jrNzR8 v => [0x20, v]
  | .ldHlD16 v => 0x21 :: encodeWord v
  | .ldIndHlIncA => [0x22]
  | .incHl => [0x23]
  | .incH => [0x24]
  | .decH => [0x25]
  | .ldHD8 v => [0x26, v]
  | .addHlHl => [0x29]
  | .ldAIndHlInc => [0x2A]
  | .decHl => [0x2B]
  | .incL => [0x2C]
  | .decL => [0x2D]
  | .ldLD8 v => [0x2E, v]

/-- The bytes of an instruction the core fetches: its encoding, less the second byte of `stop` (R123). -/
def Instr.fetchedBytes (i : Instr) : List Byte := (encode i).take i.format.fetched

/-- The three bytes, first byte lowest, of a word whose bit 0 is the least significant bit of the first byte; bits at
or above `nbits` are 0. -/
def tableWordBytes (nbits w : Nat) : List Byte :=
  let v := w % 2 ^ nbits
  [BitVec.ofNat 8 v, BitVec.ofNat 8 (v / 256), BitVec.ofNat 8 (v / 65536)]

/-- The instruction the decoder reads from a word numbered as spec/opcode_table.json numbers its rows. -/
def decodeTableWord (nbits w : Nat) : Option Instr :=
  match decode (tableWordBytes nbits w) with
  | .instr i => some i
  | .unimplemented _ => none
  | .outOfBounds _ _ => none

end Sys2Proof
end

