-- ==== Sys2Proof/Config.lean ====
section
/-! DEFINITION. The named parameters of 00_scope.md R8, each fixed for one run, and the one free value of the
model: the byte the data-bus collaborator answers (20_memory.md R63). -/

namespace Sys2Proof

/-- INC8_Z_SOURCE (R8, 92_eei_decisions.md D3): what Z of the 8-bit `inc` and `dec` tests. -/
inductive ZSource where
  /-- The updated 8-bit register alone; the default. -/
  | half
  /-- The whole pair the register is a half of; the source's reference behaviour. -/
  | pair
  deriving DecidableEq, Repr

/-- CYCLE_WIDTH (R8, 10_state.md R36, D11): the width of the cycle counter. -/
inductive CycleWidth where
  /-- A natural number that never overflows; the default. -/
  | unbounded
  /-- Every write of CYC is reduced mod 2^width. -/
  | bits (width : Nat)
  deriving DecidableEq, Repr

/-- BUS (R8): the collaborator behind the data-bus port. -/
inductive BusModel where
  /-- Any byte per read, independent of earlier writes (20_memory.md R63, D8); the default. -/
  | anyByte
  /-- The flat test bus of D19: a read returns the last byte written at the address. A harness assumption of the
  spec, chosen by the platform and never by the core. -/
  | flat
  deriving DecidableEq, Repr

/-- The parameters of R8 that stay fixed for one run. PROG is a field of State and INIT_PC an argument of the
reset. DESIGN CHOICE (log 3): they stand in State, so that a statement over every state holds for each value. -/
structure Params where
  jrDispSigned : Bool
  inc8ZSource  : ZSource
  cycleWidth   : CycleWidth
  bus          : BusModel
  deriving DecidableEq, Repr

/-- The defaults of R8. -/
def Params.default : Params :=
  { jrDispSigned := true, inc8ZSource := .half, cycleWidth := .unbounded, bus := .anyByte }

/-- One transaction on the data-bus port (10_state.md R53): an address and the byte that moved. -/
inductive BusEvent where
  | read (addr : Word) (value : Byte)
  | write (addr : Word) (value : Byte)
  deriving DecidableEq, Repr

/-- FREE VALUE (20_memory.md R63, D8; log 5): the byte an open collaborator answers to a read. It may depend on how
many answers were drawn before, on every transaction so far and on the address; nothing constrains it. -/
opaque Config.busAnswer (draw : Nat) (history : List BusEvent) (addr : Word) : Byte

end Sys2Proof
end

