-- ==== Sys2Proof/Machine/State.lean ====
section
/-! DEFINITION. The state of the core as plain data (10_state.md R20), the fault record (R43), the reasons a step can
stop, and the state right after reset (R46). -/

namespace Sys2Proof.Machine

/-- The fault kinds of 60_exceptions.md R300, as the fault record keeps them. The step that raises one is a NEXT state
(R303, log 8), so no step answers Outcome.fault. -/
inductive Fault where
  /-- Raised by the fetch of an opcode or operand byte at an index of FETCH_LIMIT or above (R301). Safe: the core
  stops with every other state element as it was. -/
  | outOfBoundsFetch
  /-- Raised by the dispatch of an opcode without an entry (R302). Safe: as above. -/
  | unimplementedOpcode
  deriving DecidableEq, Repr

/-- The reasons a step gives no next state. -/
inductive Refusal where
  /-- Raised by exec for an instruction without a meaning. Safe. No arm of exec answers with it. -/
  | notModelled (mnemonic : String)
  /-- Raised by step where no program is loaded: a reset with an empty ProgramMemory is refused and no step can be
  taken (R305, log 2). Safe. -/
  | emptyProgramMemory
  deriving DecidableEq, Repr

/-- RUN, the run state (10_state.md R42). -/
inductive RunState where
  | running
  /-- Entered only by `stop` (42_nop_stop.md R161); terminal. -/
  | stopped
  /-- Entered only by a fault (60_exceptions.md R303); terminal. -/
  | faulted
  deriving DecidableEq, Repr

/-- The fault record of R43: its kind and code, the PC of the faulting instruction, its opcode if that was fetched,
and the ProgramMemory index whose fetch failed. -/
structure FaultRecord where
  kind   : Fault
  code   : Nat
  pc     : Word
  opcode : Option Byte
  index  : Option Nat
  deriving DecidableEq, Repr

/-- The bytes of a 16-bit address space, sorted by address, no entry equal to what an unlisted address reads as. -/
abbrev Memory := List Host.Cell

/-- The state of the core and of its two ports. -/
structure State where
  /-- A, the accumulator (R21). -/
  a : Byte
  /-- F, the flags register (R26): Z, N, H, C in bits 7 to 4. -/
  f : Byte
  b : Byte
  c : Byte
  d : Byte
  e : Byte
  h : Byte
  l : Byte
  /-- The stack pointer (R30). -/
  sp : Word
  /-- The program counter (R31): between instructions, the index of the next opcode. -/
  pc : Word
  /-- CYC, the cycle counter (R35, R36). -/
  cyc : Nat
  /-- RUN (R42). -/
  run : RunState
  /-- FR (R43). -/
  fr : Option FaultRecord
  /-- PROG, the ProgramMemory byte sequence: read by fetch alone, written by nothing (20_memory.md R60, R66). -/
  prog : List Byte
  /-- The parameters of 00_scope.md R8, fixed for one run (log 3). -/
  params : Params
  /-- The collaborator's bytes: the last byte each data-bus address was handed (20_memory.md R64; log 6). A read
  consults it on the flat bus only. -/
  mem : Memory
  /-- The data-bus transactions issued so far, newest first (R72; the model's own field, log 7). -/
  busLog : List BusEvent
  /-- How many free bus answers were drawn (the model's own field, log 5). -/
  draws : Nat
  deriving DecidableEq, Repr

/-- The machine right after reset, at the default parameters and with no program loaded yet (R46, log 1). -/
def State.reset : State :=
  { a := 0, f := 0, b := 0, c := 0, d := 0, e := 0, h := 0, l := 0, sp := 0, pc := 0, cyc := 0
    run := .running, fr := none, prog := [], params := Params.default, mem := [], busLog := [], draws := 0 }

/-- What every meaning answers. -/
abbrev Result := Host.Outcome State Fault Refusal

end Sys2Proof.Machine
end

