-- ==== Sys2Proof/Machine/Operands.lean ====
section
/-! DEFINITION. The operand forms of 30_encoding.md R96: an 8-bit register, a register pair, and the displacement of a
relative jump. Immediates reach a meaning as decoded; the indirect forms are in Ops. -/

namespace Sys2Proof

/-- hi(rr) of 00_scope.md R13. -/
def Pair.hi : Pair → Reg8
  | .af => .a | .bc => .b | .de => .d | .hl => .h

/-- lo(rr) of 00_scope.md R13. -/
def Pair.lo : Pair → Reg8
  | .af => .f | .bc => .c | .de => .e | .hl => .l

/-- The other half of pair(r) (00_scope.md R13, 41_alu_flags.md R143). -/
def Reg8.other : Reg8 → Reg8
  | .a => .f | .f => .a | .b => .c | .c => .b | .d => .e | .e => .d | .h => .l | .l => .h

end Sys2Proof

namespace Sys2Proof.Machine

/-- `x[r]` (00_scope.md R12). -/
def State.readR8 (s : State) : Reg8 → Byte
  | .a => s.a | .f => s.f | .b => s.b | .c => s.c | .d => s.d | .e => s.e | .h => s.h | .l => s.l

/-- `x[r] <- v` (R14). -/
def State.writeR8 (s : State) (r : Reg8) (v : Byte) : State :=
  match r with
  | .a => { s with a := v }
  | .f => { s with f := v }
  | .b => { s with b := v }
  | .c => { s with c := v }
  | .d => { s with d := v }
  | .e => { s with e := v }
  | .h => { s with h := v }
  | .l => { s with l := v }

/-- `x[rr]`, the two halves joined, high half first (R12, 10_state.md R22). -/
def State.readPair (s : State) (rr : Pair) : Word := joinBytes (s.readR8 rr.hi) (s.readR8 rr.lo)

/-- `x[rr] <- v`: both halves are written (R14, R22). -/
def State.writePair (s : State) (rr : Pair) (v : Word) : State :=
  (s.writeR8 rr.hi (hiByte v)).writeR8 rr.lo (loByte v)

/-- What the host reads of a pair: `[high, low]` (10_state.md R55). -/
def State.observePair (s : State) (rr : Pair) : List Byte := [s.readR8 rr.hi, s.readR8 rr.lo]

/-- The displacement of a relative jump: `sext_16(r8)` or `zext_16(r8)` by JR_DISP_SIGNED (30_encoding.md R95, R11). -/
def jrDisplacement (signed : Bool) (r8 : Byte) : Word :=
  if signed then r8.signExtend 16 else r8.setWidth 16

end Sys2Proof.Machine
end

