-- ==== Sys2Proof/Machine/Flags.lean ====
section
/-! DEFINITION. The flag unit (41_alu_flags.md R143, R150; 10_state.md R26). -/

namespace Sys2Proof.Machine

/-- Z, bit 7 of F (R26). -/
def State.flagZ (s : State) : Bool := s.f.getLsbD 7

/-- N, bit 6 of F. -/
def State.flagN (s : State) : Bool := s.f.getLsbD 6

/-- HF, bit 5 of F. -/
def State.flagH (s : State) : Bool := s.f.getLsbD 5

/-- CF, bit 4 of F. -/
def State.flagC (s : State) : Bool := s.f.getLsbD 4

/-- The value a flag-writing instruction writes to F: the four flags, and bits 3..0 zero (R150). -/
def packFlags (z n h c : Bool) : Byte :=
  (bitByte z <<< 7) ||| (bitByte n <<< 6) ||| (bitByte h <<< 5) ||| (bitByte c <<< 4)

/-- A flag-writing instruction writes F as one 8-bit value (R150). -/
def State.writeFlags (s : State) (z n h c : Bool) : State := { s with f := packFlags z n h c }

/-- Z8 (R143), on the state in which `res` is written to `r` already. -/
def State.z8 (s : State) (r : Reg8) (res : Byte) : Bool :=
  match s.params.inc8ZSource with
  | .half => res == 0
  | .pair => res == 0 && s.readR8 r.other == 0

end Sys2Proof.Machine
end

