-- ==== Sys2Proof/Machine/Ops.lean ====
section
/-! DEFINITION. The named operations over the two memories, PC, CYC and RUN (00_scope.md R15, R16), and taking a fault
(60_exceptions.md R303). There is no return from a fault: only a new reset leaves FAULTED (R309). -/

namespace Sys2Proof.Machine

/-! ### ProgramMemory -/

/-- FETCH_LIMIT (00_scope.md R9). -/
abbrev State.fetchLimit (s : State) : Nat := min s.prog.length 0x10000

/-- Fetch(i) on an exact index: the byte, or none where it is out of bounds (20_memory.md R61). -/
def State.fetch (s : State) (i : Nat) : Option Byte :=
  if i < s.fetchLimit then s.prog[i]? else none

/-- Opcode fetch, dispatch and operand fetch at PC, on exact indices pc + k (40_execution_cycle.md R121 to R123). -/
def State.decodeNext (s : State) : DecodeResult := decodeAt fun k => s.fetch (s.pc.toNat + k)

/-- `bytes` placed into a program at index `i`; a program that ends before `i` is extended with 0x00 (log 11). -/
def placeBytes (prog : List Byte) (i : Nat) (bytes : List Byte) : List Byte :=
  prog.take i ++ List.replicate (i - prog.length) 0 ++ bytes ++ prog.drop (i + bytes.length)

/-! ### The bytes behind the data bus -/

/-- What an address that is not listed reads as (92_eei_decisions.md D19, log 6). -/
def Memory.unlisted : Byte := 0x00

/-- The byte at an address. -/
def Memory.read : Memory → Nat → Byte
  | [], _ => Memory.unlisted
  | (k, v) :: m, addr => if addr = k then v else Memory.read m addr

/-- One cell in front of a memory that lists only higher addresses; a byte equal to the unlisted one is not listed. -/
def Memory.cons (addr : Nat) (v : Byte) (m : Memory) : Memory :=
  if v = Memory.unlisted then m else (addr, v) :: m

/-- The memory with one byte written, in canonical form again. -/
def Memory.write : Memory → Nat → Byte → Memory
  | [], addr, v => Memory.cons addr v []
  | (k, w) :: m, addr, v =>
    if addr < k then Memory.cons addr v ((k, w) :: m)
    else if addr = k then Memory.cons addr v m
    else (k, w) :: Memory.write m addr v

/-- Addresses strictly rise from `low`, lie below 0x10000, and no byte equals the unlisted one. -/
def Memory.wfFrom : Nat → Memory → Bool
  | _, [] => true
  | low, (k, v) :: m => decide (low ≤ k) && decide (k < 0x10000) && (v != Memory.unlisted) && Memory.wfFrom (k + 1) m

/-- The canonical form. -/
def Memory.wf (m : Memory) : Bool := Memory.wfFrom 0 m

/-! ### The data-bus port -/

/-- The byte the collaborator answers to a read at `addr` (20_memory.md R63): a free value, or on the flat bus the
byte last written (D19). -/
def State.busReply (s : State) (addr : Word) : Byte :=
  match s.params.bus with
  | .anyByte => Config.busAnswer s.draws s.busLog addr
  | .flat => Memory.read s.mem addr.toNat

/-- The number of free values drawn once a read is answered. -/
def State.drawsAfterRead (s : State) : Nat :=
  match s.params.bus with
  | .anyByte => s.draws + 1
  | .flat => s.draws

/-- MemRead(a, 1): one read transaction, and the state after it (R63, R72). -/
def State.memRead (s : State) (addr : Word) : Byte × State :=
  (s.busReply addr, { s with busLog := .read addr (s.busReply addr) :: s.busLog, draws := s.drawsAfterRead })

/-- MemWrite(a, 1, v): one write transaction, handed to the collaborator (R64, R72). -/
def State.memWrite (s : State) (addr : Word) (v : Byte) : State :=
  { s with mem := Memory.write s.mem addr.toNat v, busLog := .write addr v :: s.busLog }

/-! ### PC, CYC and RUN -/

/-- `pc <- target` (R14, R16). -/
def State.jump (s : State) (target : Word) : State := { s with pc := target }

/-- The program-counter incrementer: `pc <- (pc + len) mod 2^16` (40_execution_cycle.md R125, 41_alu_flags.md R153). -/
def State.advance (s : State) (len : Nat) : State := s.jump (BitVec.ofNat 16 (s.pc.toNat + len))

/-- The value of CYC after `n` more cycles, under CYCLE_WIDTH (10_state.md R36, 40_execution_cycle.md R126). -/
def State.cycAfter (s : State) (n : Nat) : Nat :=
  match s.params.cycleWidth with
  | .unbounded => s.cyc + n
  | .bits width => (s.cyc + n) % 2 ^ width

/-- `tick(n)` (R126). -/
def State.tick (s : State) (n : Nat) : State := { s with cyc := s.cycAfter n }

/-- The end of every instruction but a taken jump: PC moves past it and its cycles are charged. -/
def State.finish (s : State) (len cycles : Nat) : State := (s.advance len).tick cycles

/-- `stop_core()` (R16). -/
def State.stopCore (s : State) : State := { s with run := .stopped }

/-! ### Taking a fault -/

/-- The numeric code of a fault kind (R300). -/
def Fault.code : Fault → Nat
  | .outOfBoundsFetch => 1
  | .unimplementedOpcode => 2

/-- Taking a fault (60_exceptions.md R303): RUN becomes FAULTED and FR is written; nothing else changes. -/
def State.takeFault (s : State) (kind : Fault) (opcode : Option Byte) (index : Option Nat) : State :=
  { s with
    run := .faulted
    fr := some { kind := kind, code := kind.code, pc := s.pc, opcode := opcode, index := index } }

/-- UnimplementedOpcode(pc, op) (R302): no index is recorded. -/
def State.raiseUnimplemented (s : State) (op : Byte) : State :=
  s.takeFault .unimplementedOpcode (some op) none

/-- OutOfBoundsFetch(pc, pc + offset) (R301): the opcode is recorded where it was fetched. -/
def State.raiseOutOfBounds (s : State) (offset : Nat) (op : Option Byte) : State :=
  s.takeFault .outOfBoundsFetch op (some (s.pc.toNat + offset))

end Sys2Proof.Machine
end

