-- ==== Sys2Proof/Machine/Add16.lean ====
section
/-! DEFINITION. 16-bit add into HL (45_add16.md). -/

namespace Sys2Proof.Machine

/-- `add hl,rr`: Z and N are cleared, H is the carry out of bit 11, C the carry out of bit 15; both operands are read
before HL is written (R239, 41_alu_flags.md R144, R156). -/
def addHl (rr : Pair) (s : State) : Result :=
  let sum := add16 (s.readPair .hl) (s.readPair rr)
  .next (((s.writePair .hl sum.1).writeFlags false false sum.2.1 sum.2.2).finish 1 8)

/-- `add hl,bc` (R240). -/
def execAddHlBc (s : State) : Result := addHl .bc s

/-- `add hl,de` (R241). -/
def execAddHlDe (s : State) : Result := addHl .de s

/-- `add hl,hl` (R242). -/
def execAddHlHl (s : State) : Result := addHl .hl s


end Sys2Proof.Machine
end

