-- ==== Sys2Proof/Machine/ImmediateLoads.lean ====
section
/-! DEFINITION. Immediate loads (43_immediate_loads.md). -/

namespace Sys2Proof.Machine

/-- `ld r,d8`: the byte goes to the register half; no flag (R169). -/
def loadR8 (r : Reg8) (d8 : Byte) (s : State) : Result := .next ((s.writeR8 r d8).finish 2 8)

/-- `ld rr,d16`: the word, decoded high byte first, goes to the pair; no flag (R169). -/
def loadPair (rr : Pair) (d16 : Word) (s : State) : Result := .next ((s.writePair rr d16).finish 3 12)

/-- `ld b,d8` (R170). -/
def execLdBD8 (d8 : Byte) (s : State) : Result := loadR8 .b d8 s

/-- `ld c,d8` (R171). -/
def execLdCD8 (d8 : Byte) (s : State) : Result := loadR8 .c d8 s

/-- `ld d,d8` (R172). -/
def execLdDD8 (d8 : Byte) (s : State) : Result := loadR8 .d d8 s

/-- `ld e,d8` (R173). -/
def execLdED8 (d8 : Byte) (s : State) : Result := loadR8 .e d8 s

/-- `ld h,d8` (R174). -/
def execLdHD8 (d8 : Byte) (s : State) : Result := loadR8 .h d8 s

/-- `ld l,d8` (R175). -/
def execLdLD8 (d8 : Byte) (s : State) : Result := loadR8 .l d8 s

/-- `ld bc,d16` (R176). -/
def execLdBcD16 (d16 : Word) (s : State) : Result := loadPair .bc d16 s

/-- `ld de,d16` (R177). -/
def execLdDeD16 (d16 : Word) (s : State) : Result := loadPair .de d16 s

/-- `ld hl,d16` (R178). -/
def execLdHlD16 (d16 : Word) (s : State) : Result := loadPair .hl d16 s


end Sys2Proof.Machine
end

