-- ==== Sys2Proof/Machine/IncDec.lean ====
section
/-! DEFINITION. Increment and decrement (44_incdec.md). -/

namespace Sys2Proof.Machine

/-- `inc rr`: 16-bit wrap, no flag (R199). -/
def incPair (rr : Pair) (s : State) : Result := .next ((s.writePair rr (inc16 (s.readPair rr))).finish 1 8)

/-- `dec rr`: 16-bit wrap, no flag (R199). -/
def decPair (rr : Pair) (s : State) : Result := .next ((s.writePair rr (dec16 (s.readPair rr))).finish 1 8)

/-- The register and flag part common to `inc r` and `dec r`: the result is written, then F from Z8, N, the half-carry
and the old C (R199, 41_alu_flags.md R143, R150). -/
def State.writeCounted (s : State) (r : Reg8) (res : Byte) (n half : Bool) : State :=
  (s.writeR8 r res).writeFlags ((s.writeR8 r res).z8 r res) n half s.flagC

/-- `inc r` (R199). -/
def incR8 (r : Reg8) (s : State) : Result :=
  .next ((s.writeCounted r (inc8 (s.readR8 r)).1 false (inc8 (s.readR8 r)).2).finish 1 4)

/-- `dec r` (R199). -/
def decR8 (r : Reg8) (s : State) : Result :=
  .next ((s.writeCounted r (dec8 (s.readR8 r)).1 true (dec8 (s.readR8 r)).2).finish 1 4)

/-- `inc bc` (R200). -/
def execIncBc (s : State) : Result := incPair .bc s

/-- `inc de` (R201). -/
def execIncDe (s : State) : Result := incPair .de s

/-- `inc hl` (R202). -/
def execIncHl (s : State) : Result := incPair .hl s

/-- `dec bc` (R203). -/
def execDecBc (s : State) : Result := decPair .bc s

/-- `dec de` (R204). -/
def execDecDe (s : State) : Result := decPair .de s

/-- `dec hl` (R205). -/
def execDecHl (s : State) : Result := decPair .hl s

/-- `inc b` (R210). -/
def execIncB (s : State) : Result := incR8 .b s

/-- `inc c` (R211). -/
def execIncC (s : State) : Result := incR8 .c s

/-- `inc d` (R212). -/
def execIncD (s : State) : Result := incR8 .d s

/-- `inc e` (R213). -/
def execIncE (s : State) : Result := incR8 .e s

/-- `inc h` (R214). -/
def execIncH (s : State) : Result := incR8 .h s

/-- `inc l` (R215). -/
def execIncL (s : State) : Result := incR8 .l s

/-- `dec b` (R220). -/
def execDecB (s : State) : Result := decR8 .b s

/-- `dec c` (R221). -/
def execDecC (s : State) : Result := decR8 .c s

/-- `dec d` (R222). -/
def execDecD (s : State) : Result := decR8 .d s

/-- `dec e` (R223). -/
def execDecE (s : State) : Result := decR8 .e s

/-- `dec h` (R224). -/
def execDecH (s : State) : Result := decR8 .h s

/-- `dec l` (R225). -/
def execDecL (s : State) : Result := decR8 .l s


end Sys2Proof.Machine
end

