-- ==== Sys2Proof/Machine/IndirectLoads.lean ====
section
/-! DEFINITION. Indirect loads and stores, and the SP store (46_indirect_loads.md). -/

namespace Sys2Proof.Machine

/-- `ld (rr),a`: A is written at the pair's address; no flag (R249). -/
def storeA (rr : Pair) (s : State) : Result := .next ((s.memWrite (s.readPair rr) s.a).finish 1 8)

/-- `ld a,(rr)`: A gets the byte the bus answers; no flag (R249). -/
def loadA (rr : Pair) (s : State) : Result :=
  let reply := s.memRead (s.readPair rr)
  .next ((reply.2.writeR8 .a reply.1).finish 1 8)

/-- `ld (bc),a` (R250). -/
def execLdIndBcA (s : State) : Result := storeA .bc s

/-- `ld a,(bc)` (R251). -/
def execLdAIndBc (s : State) : Result := loadA .bc s

/-- `ld (de),a` (R252). -/
def execLdIndDeA (s : State) : Result := storeA .de s

/-- `ld a,(de)` (R253). -/
def execLdAIndDe (s : State) : Result := loadA .de s

/-- `ld (hl+),a` (R254): the write uses HL from before the increment. -/
def execLdIndHlIncA (s : State) : Result :=
  let addr := s.readPair .hl
  .next (((s.memWrite addr s.a).writePair .hl (inc16 addr)).finish 1 8)

/-- `ld a,(hl+)` (R255): the read uses HL from before the increment. -/
def execLdAIndHlInc (s : State) : Result :=
  let addr := s.readPair .hl
  let reply := s.memRead addr
  .next (((reply.2.writeR8 .a reply.1).writePair .hl (inc16 addr)).finish 1 8)

/-- `ld (a16),sp` (R256): SP's high byte at a16, then its low byte at (a16 + 1) mod 2^16 (20_memory.md R68, R72). -/
def execLdIndA16Sp (a16 : Word) (s : State) : Result :=
  .next (((s.memWrite a16 (hiByte s.sp)).memWrite (a16 + 1) (loByte s.sp)).finish 3 20)


end Sys2Proof.Machine
end

