-- ==== Sys2Proof/Machine/NopStop.lean ====
section
/-! DEFINITION. No-op and processor stop (42_nop_stop.md). -/

namespace Sys2Proof.Machine

/-- `nop` (R160). -/
def execNop (s : State) : Result := .next (s.finish 1 4)

/-- `stop` (R161); the second byte is not fetched. -/
def execStop (s : State) : Result := .next (s.finish 2 4).stopCore


end Sys2Proof.Machine
end

