-- ==== Sys2Proof/Machine/RelativeJumps.lean ====
section
/-! DEFINITION. Relative jumps (47_relative_jumps.md). -/

namespace Sys2Proof.Machine

/-- A taken jump: the target is the opcode address plus the displacement, mod 2^16; no length is added, 12 cycles are
charged (R269, 41_alu_flags.md R152). -/
def State.takeJump (s : State) (r8 : Byte) : State :=
  (s.jump (s.pc + jrDisplacement s.params.jrDispSigned r8)).tick 12

/-- `jr r8` (R270). -/
def execJrR8 (r8 : Byte) (s : State) : Result := .next (s.takeJump r8)

/-- `jr nz,r8` (R271): taken, 12 cycles, where Z is clear; else past the instruction, 8 cycles. -/
def execJrNzR8 (r8 : Byte) (s : State) : Result :=
  .next (if s.flagZ then s.finish 2 8 else s.takeJump r8)


end Sys2Proof.Machine
end

