-- ==== Sys2Proof/Machine/Rotates.lean ====
section
/-! DEFINITION. Accumulator rotates (48_rotates.md). -/

namespace Sys2Proof.Machine

/-- A rotate of A: C is the bit rotated out; Z, N and H are cleared whatever the result (R279). -/
def rotateA (rotated : Byte × Bool) (s : State) : Result :=
  .next (((s.writeR8 .a rotated.1).writeFlags false false false rotated.2).finish 1 4)

/-- `rlca` (R280). -/
def execRlca (s : State) : Result := rotateA (rlc8 s.a) s

/-- `rrca` (R281). -/
def execRrca (s : State) : Result := rotateA (rrc8 s.a) s

/-- `rla` (R282). -/
def execRla (s : State) : Result := rotateA (rl8 s.a s.flagC) s

/-- `rra` (R283). -/
def execRra (s : State) : Result := rotateA (rr8 s.a s.flagC) s


end Sys2Proof.Machine
end

