-- ==== Sys2Proof/Machine/Step.lean ====
section
/-! DEFINITION. One step of the core (40_execution_cycle.md R120 to R127). -/

namespace Sys2Proof.Machine

/-- The instruction at PC, or the fault its fetch or dispatch raises, as the next state (R121 to R124, R127). -/
def stepRunning (s : State) : Host.Outcome State Fault Refusal :=
  match s.decodeNext with
  | .instr i => exec i s
  | .unimplemented op => .next (s.raiseUnimplemented op)
  | .outOfBounds offset op => .next (s.raiseOutOfBounds offset op)

/-- Step() (10_state.md R54): one instruction where RUN is RUNNING; where it is STOPPED or FAULTED the request leaves
all state unchanged (R120, log 9). With no program loaded no step can be taken (60_exceptions.md R305, log 2). -/
def step (s : State) : Host.Outcome State Fault Refusal :=
  match s.run with
  | .stopped => .next s
  | .faulted => .next s
  | .running => if wfProgram s.prog then stepRunning s else .refused .emptyProgramMemory

/-- The state with an instruction word placed in ProgramMemory at PC, as the host that loads a program would place it
(log 11). RUN and all else stay. -/
def State.withFetchWord (s : State) (nbits w : Nat) : State :=
  { s with prog := placeBytes s.prog s.pc.toNat (tableWordBytes nbits w) }

end Sys2Proof.Machine
end

