-- ==== Sys2Proof/Machine/Reset.lean ====
section
/-! DEFINITION. The host's reset request (10_state.md R51, 70_reset_and_hazards.md R330 to R333). -/

namespace Sys2Proof.Machine

/-- The state a reset leaves (R46, R332): every register zero, PC at INIT_PC, CYC zero, RUNNING, no fault recorded; the
program and the parameters are those given. -/
def State.afterReset (prog : List Byte) (initPc : Word) (params : Params) : State :=
  { a := 0, f := 0, b := 0, c := 0, d := 0, e := 0, h := 0, l := 0, sp := 0, pc := initPc, cyc := 0
    run := .running, fr := none, prog := prog, params := params, mem := [], busLog := [], draws := 0 }

/-- Reset(PROG, INIT_PC), at given parameters: the old state is discarded. An empty program is refused
(60_exceptions.md R305). -/
def State.resetWith (prog : List Byte) (initPc : Word) (params : Params) : Option State :=
  if wfProgram prog then some (State.afterReset prog initPc params) else none

end Sys2Proof.Machine
end

