-- ==== Sys2Proof/Machine/Run.lean ====
section
/-! DEFINITION. The host's run request (40_execution_cycle.md R128, R129; 10_state.md R54). -/

namespace Sys2Proof.Machine

/-- Run() under a budget of steps (R54): Step() is repeated while RUN is RUNNING. Answers the state in which RUN left
RUNNING, or none where the budget ended first or no step could be taken. -/
def runLoop : Nat → State → Option State
  | 0, s => if s.run = .running then none else some s
  | budget + 1, s =>
    if s.run = .running then
      match step s with
      | .next t => runLoop budget t
      | .fault _ => none
      | .refused _ => none
    else some s

end Sys2Proof.Machine
end

