-- ==== Sys2Proof/Safety.lean ====
section
/-! DEFINITION. What counts as a legal state and as a good end of a run, in the terms the claims use. -/

namespace Sys2Proof.Machine

/-- CYC fits its width (10_state.md R36). -/
def State.cycFits (s : State) : Prop :=
  match s.params.cycleWidth with
  | .unbounded => True
  | .bits width => s.cyc < 2 ^ width

/-- The invariant of the core: bits 3..0 of F are zero (10_state.md R27), CYC fits its width (R36), FR holds a record
exactly when RUN is FAULTED (R42, R43), and the bytes behind the bus are in canonical form. -/
structure State.Inv (s : State) : Prop where
  flagsLow : s.f &&& 0x0F = 0
  cycFits  : s.cycFits
  record   : s.fr.isSome = true ↔ s.run = .faulted
  memory   : Memory.wf s.mem = true

/-- `t` is reached from a reset in some number of steps (70_reset_and_hazards.md R330, 40_execution_cycle.md R128). -/
def State.ReachableFrom (prog : List Byte) (initPc : Word) (params : Params) (t : State) : Prop :=
  ∃ s k, State.resetWith prog initPc params = some s ∧ Sys2Proof.core.run k s = .next t

/-- The only normal end of a run (40_execution_cycle.md R130); a FAULTED state is no result. -/
def State.normalEnd (s : State) : Bool := s.run == .stopped

end Sys2Proof.Machine
end

