-- ==== Sys2Proof/Certificates/Slice0/Obligations.lean ====
section
/-! DEFINITION. The statements for the provers. The helpers before them write out tables of the spec that the
statements need; they are read beside the rules they cite and the model does not use them. -/

namespace Sys2Proof.Machine

/-- The bytes stand at PC, where fetch finds them. -/
abbrev State.BytesAt (s : State) (bytes : List Byte) : Prop :=
  ∀ k < bytes.length, s.fetch (s.pc.toNat + k) = bytes[k]?

/-- The state after a fault (60_exceptions.md R303): RUN and FR are written, nothing else changes. -/
def State.faultedWith (s : State) (r : FaultRecord) : State := { s with run := .faulted, fr := some r }

/-- The record of an OutOfBoundsFetch at an index (60_exceptions.md R301). -/
def outOfBoundsRecord (pc : Word) (opcode : Option Byte) (index : Nat) : FaultRecord :=
  { kind := .outOfBoundsFetch, code := 1, pc := pc, opcode := opcode, index := some index }

/-- The record of an UnimplementedOpcode (60_exceptions.md R302). -/
def unimplementedRecord (pc : Word) (op : Byte) : FaultRecord :=
  { kind := .unimplementedOpcode, code := 2, pc := pc, opcode := some op, index := none }

/-- An instruction rule of files 42 to 48 as a whole (00_scope.md R17), for an instruction, the bytes the core fetches
of it and its effect. First, exec of the instruction ANSWERS THE NEXT STATE `effect s` in every state. Second, a RUNNING
core with those bytes at PC steps to that state. Third, its faults: where the bytes before index pc + k are fetched
and pc + k is not below FETCH_LIMIT, the step ends in that OutOfBoundsFetch and changes nothing but RUN and FR. -/
def ExecutesAs (i : Instr) (bytes : List Byte) (effect : State → State) : Prop :=
  ∀ s : State,
    exec i s = .next (effect s) ∧
    (s.run = .running → s.BytesAt bytes → step s = .next (effect s)) ∧
    (s.run = .running → s.prog ≠ [] → ∀ k < bytes.length,
      s.BytesAt (bytes.take k) → min s.prog.length 0x10000 ≤ s.pc.toNat + k →
      step s = .next (s.faultedWith
        (outOfBoundsRecord s.pc (if k = 0 then none else bytes.head?) (s.pc.toNat + k))))

/-- Z8 of 41_alu_flags.md R143: `res` is the result, `other` the other half of the pair. -/
def countedZ (source : ZSource) (res other : Byte) : Bool :=
  match source with
  | .half => res == 0
  | .pair => res == 0 && other == 0

/-- The displacement of 30_encoding.md R95. -/
def displacement (signed : Bool) (r8 : Byte) : Word := if signed then r8.signExtend 16 else r8.setWidth 16

/-- The number of operand bytes the core fetches after an admitted opcode (30_encoding.md R91, R97). -/
def operandBytes (op : Byte) : Nat :=
  if op ∈ [0x01, 0x08, 0x11, 0x21] then 2
  else if op ∈ [0x06, 0x0E, 0x16, 0x18, 0x1E, 0x20, 0x26, 0x2E] then 1
  else 0

/-- The opcodes without an entry (30_encoding.md R98). -/
abbrev Unadmitted (op : Byte) : Prop := op = 0x27 ∨ op = 0x28 ∨ op = 0x2F ∨ 0x30 ≤ op.toNat

/-- The first fault that applies to the instruction at PC, in the order of 60_exceptions.md R306: opcode bounds,
dispatch, pc + 1, pc + 2. -/
def State.firstFault (s : State) : Option FaultRecord :=
  let limit := min s.prog.length 0x10000
  if limit ≤ s.pc.toNat then some (outOfBoundsRecord s.pc none s.pc.toNat)
  else match s.prog[s.pc.toNat]? with
    | none => none
    | some op =>
      if Unadmitted op then some (unimplementedRecord s.pc op)
      else if 1 ≤ operandBytes op ∧ limit ≤ s.pc.toNat + 1 then some (outOfBoundsRecord s.pc (some op) (s.pc.toNat + 1))
      else if 2 ≤ operandBytes op ∧ limit ≤ s.pc.toNat + 2 then some (outOfBoundsRecord s.pc (some op) (s.pc.toNat + 2))
      else none

/-- One instruction executed a number of times in a row. -/
def execTimes : Nat → Instr → State → Result
  | 0, _, s => .next s
  | n + 1, i, s =>
    match exec i s with
    | .next t => execTimes n i t
    | .fault r => .fault r
    | .refused r => .refused r

/-- The registers other than F an instruction may change: its destination and the HL of the post-increment forms
(10_state.md R24). -/
def destRegs : Instr → List Reg8
  | .nop => []
  | .ldBcD16 _ => [.b, .c]
  | .ldIndBcA => []
  | .incBc => [.b, .c]
  | .incB => [.b]
  | .decB => [.b]
  | .ldBD8 _ => [.b]
  | .rlca => [.a]
  | .ldIndA16Sp _ => []
  | .addHlBc => [.h, .l]
  | .ldAIndBc => [.a]
  | .decBc => [.b, .c]
  | .incC => [.c]
  | .decC => [.c]
  | .ldCD8 _ => [.c]
  | .rrca => [.a]
  | .stop => []
  | .ldDeD16 _ => [.d, .e]
  | .ldIndDeA => []
  | .incDe => [.d, .e]
  | .incD => [.d]
  | .decD => [.d]
  | .ldDD8 _ => [.d]
  | .rla => [.a]
  | .jrR8 _ => []
  | .addHlDe => [.h, .l]
  | .ldAIndDe => [.a]
  | .decDe => [.d, .e]
  | .incE => [.e]
  | .decE => [.e]
  | .ldED8 _ => [.e]
  | .rra => [.a]
  | .jrNzR8 _ => []
  | .ldHlD16 _ => [.h, .l]
  | .ldIndHlIncA => [.h, .l]
  | .incHl => [.h, .l]
  | .incH => [.h]
  | .decH => [.h]
  | .ldHD8 _ => [.h]
  | .addHlHl => [.h, .l]
  | .ldAIndHlInc => [.a, .h, .l]
  | .decHl => [.h, .l]
  | .incL => [.l]
  | .decL => [.l]
  | .ldLD8 _ => [.l]

/-- The addresses a storing instruction writes, computed as its meaning computes them (46_indirect_loads.md). -/
def storedAddrs : Instr → State → List Word
  | .ldIndBcA, s => [s.readPair .bc]
  | .ldIndDeA, s => [s.readPair .de]
  | .ldIndHlIncA, s => [s.readPair .hl]
  | .ldIndA16Sp a16, _ => [a16, a16 + 1]
  | _, _ => []

/-- The data-bus transactions of each instruction, first one first (20_memory.md R65, R72). -/
def transactions (i : Instr) (s : State) : List BusEvent :=
  match i with
  | .ldIndBcA => [.write (joinBytes s.b s.c) s.a]
  | .ldIndDeA => [.write (joinBytes s.d s.e) s.a]
  | .ldIndHlIncA => [.write (joinBytes s.h s.l) s.a]
  | .ldAIndBc => [.read (joinBytes s.b s.c) (s.busReply (joinBytes s.b s.c))]
  | .ldAIndDe => [.read (joinBytes s.d s.e) (s.busReply (joinBytes s.d s.e))]
  | .ldAIndHlInc => [.read (joinBytes s.h s.l) (s.busReply (joinBytes s.h s.l))]
  | .ldIndA16Sp a16 => [.write a16 (hiByte s.sp), .write (a16 + 1) (loByte s.sp)]
  | _ => []

/-- The target of a taken relative jump; none for any other instruction and for `jr nz` with Z set
(47_relative_jumps.md R269 to R271). -/
def jumpTarget (i : Instr) (s : State) : Option Word :=
  match i with
  | .jrR8 r8 => some (s.pc + displacement s.params.jrDispSigned r8)
  | .jrNzR8 r8 => if s.f.getLsbD 7 then none else some (s.pc + displacement s.params.jrDispSigned r8)
  | _ => none

/-- The cost of an instruction in cycles (70_reset_and_hazards.md R338). -/
def cost (i : Instr) (s : State) : Nat :=
  match i.family with
  | .noOp => 4 | .stop => 4 | .loadR8 => 8 | .loadPair => 12 | .incPair => 8 | .decPair => 8 | .incR8 => 4
  | .decR8 => 4 | .addHl => 8 | .storeA => 8 | .loadA => 8 | .storeSp => 20 | .rotate => 4
  | .jump => if (jumpTarget i s).isSome then 12 else 8

/-- CYC after `n` more cycles, under CYCLE_WIDTH (40_execution_cycle.md R126). -/
def chargedCyc (s : State) (n : Nat) : Nat :=
  match s.params.cycleWidth with
  | .unbounded => s.cyc + n
  | .bits width => (s.cyc + n) % 2 ^ width

/-- Every byte behind the data bus reads as before. -/
def SameBytes (s t : State) : Prop := ∀ addr : Nat, Memory.read t.mem addr = Memory.read s.mem addr

/-- SP, FR, ProgramMemory and the parameters are as before. -/
def SameSpecials (s t : State) : Prop :=
  t.sp = s.sp ∧ t.fr = s.fr ∧ t.prog = s.prog ∧ t.params = s.params

end Sys2Proof.Machine

open Sys2Proof Sys2Proof.Machine

/-- Words written out from the opcode column of 30_encoding.md R97 and the formats of R91 decode to their instructions. A sanity statement. -/
def Obligations.FewOpcodeBytesDecode : Prop :=
  decode [0x00] = .instr .nop ∧ decode [0x01, 0x12, 0x34] = .instr (.ldBcD16 0x1234) ∧
  decode [0x06, 0x7F] = .instr (.ldBD8 0x7F) ∧ decode [0x08, 0xC0, 0x20] = .instr (.ldIndA16Sp 0xC020) ∧
  decode [0x10] = .instr .stop ∧ decode [0x20, 0xFF] = .instr (.jrNzR8 0xFF) ∧ decode [0x2A] = .instr .ldAIndHlInc

/-- Decode and encode agree in both directions (30_encoding.md R91, R93 to R95, R97, R101). The bytes fetched are the encoding, but for the second byte of `stop`, which no decode looks at (D10). -/
def Obligations.DecodeAndEncodeAgree : Prop :=
  ∀ i : Instr,
    (∀ rest : List Byte, decode (encode i ++ rest) = .instr i) ∧
    (∀ bytes : List Byte, decode bytes = .instr i → i.fetchedBytes <+: bytes)

/-- 30_encoding.md R98, 60_exceptions.md R302: fetching an opcode without an entry raises UnimplementedOpcode(pc, op); no admitted opcode does. -/
def Obligations.OpcodesWithoutAnEntryFault : Prop :=
  ∀ (s : State) (op : Byte), s.run = .running → s.fetch s.pc.toNat = some op →
    (Unadmitted op → step s = .next (s.faultedWith (unimplementedRecord s.pc op))) ∧
    (¬ Unadmitted op → ∀ t, step s = .next t → t.run = .faulted →
      ∃ index, t.fr = some (outOfBoundsRecord s.pc (some op) index))

/-- 40_execution_cycle.md R120 to R124: when the bytes at PC decode to an instruction, the step is its execution. No program counter moves around exec: each meaning writes PC itself (R125). -/
def Obligations.StepRunsTheDecodedInstruction : Prop :=
  ∀ (i : Instr) (s : State), s.run = .running → s.BytesAt i.fetchedBytes → step s = exec i s

/-- 60_exceptions.md R306 (the first fetch that fails decides), R301 and R302 (what each fault records), with FETCH_LIMIT written out (00_scope.md R9). That an instruction whose fetches all succeed completes is 40_execution_cycle.md R124, an inference the spec marks as derived. -/
def Obligations.TheStepFaultsAsItsFirstFaultSays : Prop :=
  ∀ s : State, s.run = .running → s.prog ≠ [] →
    match s.firstFault with
    | some r => step s = .next (s.faultedWith r)
    | none => ∃ i t, s.decodeNext = .instr i ∧ exec i s = .next t ∧ step s = .next t ∧ t.run ≠ .faulted

/-- 40_execution_cycle.md R121: the opcode fetch. -/
def Obligations.OpcodeFetchBeyondTheLimitFaults : Prop :=
  ∀ s : State, s.run = .running → s.prog ≠ [] →
    (min s.prog.length 0x10000 ≤ s.pc.toNat →
      step s = .next (s.faultedWith (outOfBoundsRecord s.pc none s.pc.toNat))) ∧
    (s.pc.toNat < min s.prog.length 0x10000 →
      s.fetch s.pc.toNat = s.prog[s.pc.toNat]? ∧ (s.fetch s.pc.toNat).isSome)

/-- 60_exceptions.md R303: the faulting instruction has no architectural effect. The spec marks the rule as its own decision D9. -/
def Obligations.FaultChangesOnlyRunAndRecord : Prop :=
  ∀ s t : State, s.run = .running → step s = .next t → t.run = .faulted →
    t = { s with run := .faulted, fr := t.fr } ∧
    (∃ r, t.fr = some r ∧ r.pc = s.pc ∧ r.code = r.kind.code) ∧
    ∀ k, Sys2Proof.core.run k t = .next t

/-- The outcomes of 40_execution_cycle.md R127 (an inference the spec marks as derived): no refusal and no stuck state while RUNNING. -/
def Obligations.StepOutcomeIsNextStopOrFault : Prop :=
  ∀ s : State, s.run = .running → s.prog ≠ [] →
    ∃ t, step s = .next t ∧
      ((t.run = .running ∧ t.fr = s.fr ∧ ∃ i, i ≠ .stop ∧ s.decodeNext = .instr i) ∨
       (t.run = .stopped ∧ t.fr = s.fr ∧ s.decodeNext = .instr .stop) ∨
       (t.run = .faulted ∧ ∀ i, s.decodeNext ≠ .instr i))

/-- 40_execution_cycle.md R120 (a Step() request leaves all state unchanged), 60_exceptions.md R309 (both are left only by a new reset). That the request answers a next state is the model's form (log 9). -/
def Obligations.StoppedAndFaultedCoresDoNotStep : Prop :=
  ∀ (s : State) (k : Nat), s.run ≠ .running → Sys2Proof.core.run k s = .next s

/-- The invariant of the core (10_state.md R27, R36, R42, R43). The canonical form of memory is the model's own choice (log 6). -/
def Obligations.EveryStepKeepsTheInvariant : Prop :=
  ∀ s t : State, s.Inv → step s = .next t → t.Inv

/-- 10_state.md R46 against the invariant of Safety. The reset values of the model's own fields are DESIGN CHOICES (logs 5 to 7). -/
def Obligations.ResetMeetsTheInvariant : Prop :=
  State.reset.Inv ∧
  ∀ (prog : List Byte) (initPc : Word) (params : Params) (s : State),
    State.resetWith prog initPc params = some s → s.Inv

/-- 10_state.md R30 (SP is 0x0000 in every reachable state, derived by the spec), 00_scope.md R8 (parameters are fixed for one run). The canonical form in Inv is the model's (log 6). -/
def Obligations.ReachableStatesKeepSpAndInputs : Prop :=
  ∀ (prog : List Byte) (initPc : Word) (params : Params) (t : State),
    State.ReachableFrom prog initPc params t →
    t.Inv ∧ t.sp = 0 ∧ t.prog = prog ∧ t.params = params

/-- 20_memory.md R66, over every run from every state, and so no fetch ever sees a data-bus write. -/
def Obligations.ProgramMemoryIsNeverWritten : Prop :=
  ∀ (k : Nat) (s t : State), Sys2Proof.core.run k s = .next t →
    t.prog = s.prog ∧ ∀ index, t.fetch index = s.fetch index

/-- 10_state.md R46, 60_exceptions.md R305 in the first two clauses. The third is about State.reset, which holds no program by the model's choice (log 1, DESIGN CHOICE); the last is R305's "no step can be taken" in the model's form (log 2, DEDUCED). -/
def Obligations.ResetGivesTheResetState : Prop :=
  (∀ (prog : List Byte) (initPc : Word) (params : Params), prog ≠ [] →
    ∃ s, State.resetWith prog initPc params = some s ∧ (∀ r, s.readR8 r = 0) ∧ (∀ rr, s.readPair rr = 0) ∧
      s.sp = 0 ∧ s.pc = initPc ∧ s.cyc = 0 ∧ s.run = .running ∧ s.fr = none ∧ s.prog = prog ∧ s.params = params) ∧
  (∀ (initPc : Word) (params : Params), State.resetWith [] initPc params = none) ∧
  ((∀ r, State.reset.readR8 r = 0) ∧ (∀ rr, State.reset.readPair rr = 0) ∧ State.reset.sp = 0 ∧ State.reset.pc = 0 ∧
    State.reset.cyc = 0 ∧ State.reset.run = .running ∧ State.reset.fr = none) ∧
  (∀ s : State, s.run = .running → s.prog = [] → step s = .refused .emptyProgramMemory)

/-- 10_state.md R23, the readback law, with the whole-pair write of R22. -/
def Obligations.PairsReadBackTheirHalves : Prop :=
  ∀ (s : State) (rr : Pair),
    (∀ hi lo : Byte,
      let t := (s.writeR8 rr.hi hi).writeR8 rr.lo lo
      t.readR8 rr.hi = hi ∧ t.readR8 rr.lo = lo ∧ (t.readPair rr).toNat = hi.toNat * 256 + lo.toNat ∧
        t.observePair rr = [hi, lo]) ∧
    (∀ w : Word,
      let t := s.writePair rr w
      t.readPair rr = w ∧ (t.readR8 rr.hi).toNat = w.toNat / 256 ∧ (t.readR8 rr.lo).toNat = w.toNat % 256)

/-- 41_alu_flags.md R150. -/
def Obligations.FlagByteHoldsTheFourFlags : Prop :=
  ∀ (s : State) (z n h c : Bool),
    let t := s.writeFlags z n h c
    t.f.toNat = z.toNat * 128 + n.toNat * 64 + h.toNat * 32 + c.toNat * 16 ∧
    t.flagZ = z ∧ t.flagN = n ∧ t.flagH = h ∧ t.flagC = c ∧ t = { s with f := t.f }

/-- 41_alu_flags.md R141, R142. -/
def Obligations.Inc8AndDec8CountAndReportHalfCarry : Prop :=
  ∀ v : Byte,
    (inc8 v).1.toNat = (v.toNat + 1) % 256 ∧ ((inc8 v).2 = true ↔ v.toNat % 16 = 15) ∧
    (dec8 v).1.toNat = (v.toNat + 255) % 256 ∧ ((dec8 v).2 = true ↔ v.toNat % 16 = 0)

/-- 41_alu_flags.md R144, R145. -/
def Obligations.Add16AddsAndReportsCarries : Prop :=
  ∀ x y : Word,
    (add16 x y).1.toNat = (x.toNat + y.toNat) % 65536 ∧
    ((add16 x y).2.1 = true ↔ 4096 ≤ x.toNat % 4096 + y.toNat % 4096) ∧
    ((add16 x y).2.2 = true ↔ 65536 ≤ x.toNat + y.toNat) ∧
    (inc16 x).toNat = (x.toNat + 1) % 65536 ∧ (dec16 x).toNat = (x.toNat + 65535) % 65536

/-- 41_alu_flags.md R146 to R149, bit by bit. Which rotates go through the carry is the spec's general knowledge I4. -/
def Obligations.RotatesMoveEachBit : Prop :=
  ∀ (v : Byte) (cin : Bool),
    (rlc8 v).2 = v.getLsbD 7 ∧ (rl8 v cin).2 = v.getLsbD 7 ∧ (rrc8 v).2 = v.getLsbD 0 ∧ (rr8 v cin).2 = v.getLsbD 0 ∧
    ∀ k < 8,
      (rlc8 v).1.getLsbD k = v.getLsbD ((k + 7) % 8) ∧
      (rrc8 v).1.getLsbD k = v.getLsbD ((k + 1) % 8) ∧
      (rl8 v cin).1.getLsbD k = (if k = 0 then cin else v.getLsbD (k - 1)) ∧
      (rr8 v cin).1.getLsbD k = (if k = 7 then cin else v.getLsbD (k + 1))

/-- 41_alu_flags.md R154, the wrap-around laws. -/
def Obligations.CountingWrapsAround : Prop :=
  (∀ v : Byte, (fun x => (inc8 x).1)^[256] v = v ∧ (fun x => (dec8 x).1)^[256] v = v ∧ (dec8 (inc8 v).1).1 = v) ∧
  (∀ w : Word, inc16^[65536] w = w ∧ dec16^[65536] w = w ∧ dec16 (inc16 w) = w)

/-- The corner cases of 48_rotates.md R282 and R283: nine successive rotates restore A and C. -/
def Obligations.NineRotatesThroughCarryRestore : Prop :=
  ∀ s : State,
    (∃ t, execTimes 9 .rla s = .next t ∧ t.a = s.a ∧ t.flagC = s.flagC) ∧
    (∃ t, execTimes 9 .rra s = .next t ∧ t.a = s.a ∧ t.flagC = s.flagC)

/-- 42_nop_stop.md R160. -/
def Obligations.NopAdvancesPcAndClock : Prop :=
  ExecutesAs .nop [0x00] (fun s =>
      { s with pc := s.pc + 1, cyc := s.cycAfter 4 })

/-- 42_nop_stop.md R161; the second byte is neither fetched nor checked. -/
def Obligations.StopEndsTheRun : Prop :=
  ExecutesAs .stop [0x10] (fun s =>
      { s with run := .stopped, pc := s.pc + 2, cyc := s.cycAfter 4 })

/-- 43_immediate_loads.md R170 to R175. -/
def Obligations.LdR8LoadsTheImmediateByte : Prop :=
  (∀ d8 : Byte, ExecutesAs (.ldBD8 d8) [0x06, d8] (fun s =>
      { s with b := d8, pc := s.pc + 2, cyc := s.cycAfter 8 })) ∧
  (∀ d8 : Byte, ExecutesAs (.ldCD8 d8) [0x0E, d8] (fun s =>
      { s with c := d8, pc := s.pc + 2, cyc := s.cycAfter 8 })) ∧
  (∀ d8 : Byte, ExecutesAs (.ldDD8 d8) [0x16, d8] (fun s =>
      { s with d := d8, pc := s.pc + 2, cyc := s.cycAfter 8 })) ∧
  (∀ d8 : Byte, ExecutesAs (.ldED8 d8) [0x1E, d8] (fun s =>
      { s with e := d8, pc := s.pc + 2, cyc := s.cycAfter 8 })) ∧
  (∀ d8 : Byte, ExecutesAs (.ldHD8 d8) [0x26, d8] (fun s =>
      { s with h := d8, pc := s.pc + 2, cyc := s.cycAfter 8 })) ∧
  (∀ d8 : Byte, ExecutesAs (.ldLD8 d8) [0x2E, d8] (fun s =>
      { s with l := d8, pc := s.pc + 2, cyc := s.cycAfter 8 }))

/-- 43_immediate_loads.md R176 to R178. -/
def Obligations.LdPairLoadsHighByteFirst : Prop :=
  (∀ d16 : Word, ExecutesAs (.ldBcD16 d16) [0x01, hiByte d16, loByte d16] (fun s =>
      { s with b := hiByte d16, c := loByte d16, pc := s.pc + 3, cyc := s.cycAfter 12 })) ∧
  (∀ d16 : Word, ExecutesAs (.ldDeD16 d16) [0x11, hiByte d16, loByte d16] (fun s =>
      { s with d := hiByte d16, e := loByte d16, pc := s.pc + 3, cyc := s.cycAfter 12 })) ∧
  (∀ d16 : Word, ExecutesAs (.ldHlD16 d16) [0x21, hiByte d16, loByte d16] (fun s =>
      { s with h := hiByte d16, l := loByte d16, pc := s.pc + 3, cyc := s.cycAfter 12 }))

/-- 44_incdec.md R200 to R205. -/
def Obligations.IncDecPairCountMod65536 : Prop :=
  ExecutesAs .incBc [0x03] (fun s =>
      { s with b := hiByte (joinBytes s.b s.c + 1), c := loByte (joinBytes s.b s.c + 1), pc := s.pc + 1, cyc := s.cycAfter 8 }) ∧
  ExecutesAs .incDe [0x13] (fun s =>
      { s with d := hiByte (joinBytes s.d s.e + 1), e := loByte (joinBytes s.d s.e + 1), pc := s.pc + 1, cyc := s.cycAfter 8 }) ∧
  ExecutesAs .incHl [0x23] (fun s =>
      { s with h := hiByte (joinBytes s.h s.l + 1), l := loByte (joinBytes s.h s.l + 1), pc := s.pc + 1, cyc := s.cycAfter 8 }) ∧
  ExecutesAs .decBc [0x0B] (fun s =>
      { s with b := hiByte (joinBytes s.b s.c - 1), c := loByte (joinBytes s.b s.c - 1), pc := s.pc + 1, cyc := s.cycAfter 8 }) ∧
  ExecutesAs .decDe [0x1B] (fun s =>
      { s with d := hiByte (joinBytes s.d s.e - 1), e := loByte (joinBytes s.d s.e - 1), pc := s.pc + 1, cyc := s.cycAfter 8 }) ∧
  ExecutesAs .decHl [0x2B] (fun s =>
      { s with h := hiByte (joinBytes s.h s.l - 1), l := loByte (joinBytes s.h s.l - 1), pc := s.pc + 1, cyc := s.cycAfter 8 })

/-- 44_incdec.md R210 to R215, with Z by 41_alu_flags.md R143 under either INC8_Z_SOURCE. -/
def Obligations.IncR8CountsAndSetsFlags : Prop :=
  ExecutesAs .incB [0x04] (fun s =>
      { s with b := s.b + 1, f := packFlags (countedZ s.params.inc8ZSource (s.b + 1) s.c) false (decide (s.b.toNat % 16 = 15)) (s.f.getLsbD 4), pc := s.pc + 1, cyc := s.cycAfter 4 }) ∧
  ExecutesAs .incC [0x0C] (fun s =>
      { s with c := s.c + 1, f := packFlags (countedZ s.params.inc8ZSource (s.c + 1) s.b) false (decide (s.c.toNat % 16 = 15)) (s.f.getLsbD 4), pc := s.pc + 1, cyc := s.cycAfter 4 }) ∧
  ExecutesAs .incD [0x14] (fun s =>
      { s with d := s.d + 1, f := packFlags (countedZ s.params.inc8ZSource (s.d + 1) s.e) false (decide (s.d.toNat % 16 = 15)) (s.f.getLsbD 4), pc := s.pc + 1, cyc := s.cycAfter 4 }) ∧
  ExecutesAs .incE [0x1C] (fun s =>
      { s with e := s.e + 1, f := packFlags (countedZ s.params.inc8ZSource (s.e + 1) s.d) false (decide (s.e.toNat % 16 = 15)) (s.f.getLsbD 4), pc := s.pc + 1, cyc := s.cycAfter 4 }) ∧
  ExecutesAs .incH [0x24] (fun s =>
      { s with h := s.h + 1, f := packFlags (countedZ s.params.inc8ZSource (s.h + 1) s.l) false (decide (s.h.toNat % 16 = 15)) (s.f.getLsbD 4), pc := s.pc + 1, cyc := s.cycAfter 4 }) ∧
  ExecutesAs .incL [0x2C] (fun s =>
      { s with l := s.l + 1, f := packFlags (countedZ s.params.inc8ZSource (s.l + 1) s.h) false (decide (s.l.toNat % 16 = 15)) (s.f.getLsbD 4), pc := s.pc + 1, cyc := s.cycAfter 4 })

/-- 44_incdec.md R220 to R225, with Z by 41_alu_flags.md R143 under either INC8_Z_SOURCE. -/
def Obligations.DecR8CountsAndSetsFlags : Prop :=
  ExecutesAs .decB [0x05] (fun s =>
      { s with b := s.b - 1, f := packFlags (countedZ s.params.inc8ZSource (s.b - 1) s.c) true (decide (s.b.toNat % 16 = 0)) (s.f.getLsbD 4), pc := s.pc + 1, cyc := s.cycAfter 4 }) ∧
  ExecutesAs .decC [0x0D] (fun s =>
      { s with c := s.c - 1, f := packFlags (countedZ s.params.inc8ZSource (s.c - 1) s.b) true (decide (s.c.toNat % 16 = 0)) (s.f.getLsbD 4), pc := s.pc + 1, cyc := s.cycAfter 4 }) ∧
  ExecutesAs .decD [0x15] (fun s =>
      { s with d := s.d - 1, f := packFlags (countedZ s.params.inc8ZSource (s.d - 1) s.e) true (decide (s.d.toNat % 16 = 0)) (s.f.getLsbD 4), pc := s.pc + 1, cyc := s.cycAfter 4 }) ∧
  ExecutesAs .decE [0x1D] (fun s =>
      { s with e := s.e - 1, f := packFlags (countedZ s.params.inc8ZSource (s.e - 1) s.d) true (decide (s.e.toNat % 16 = 0)) (s.f.getLsbD 4), pc := s.pc + 1, cyc := s.cycAfter 4 }) ∧
  ExecutesAs .decH [0x25] (fun s =>
      { s with h := s.h - 1, f := packFlags (countedZ s.params.inc8ZSource (s.h - 1) s.l) true (decide (s.h.toNat % 16 = 0)) (s.f.getLsbD 4), pc := s.pc + 1, cyc := s.cycAfter 4 }) ∧
  ExecutesAs .decL [0x2D] (fun s =>
      { s with l := s.l - 1, f := packFlags (countedZ s.params.inc8ZSource (s.l - 1) s.h) true (decide (s.l.toNat % 16 = 0)) (s.f.getLsbD 4), pc := s.pc + 1, cyc := s.cycAfter 4 })

/-- 45_add16.md R240 to R242. -/
def Obligations.AddHlAddsThePair : Prop :=
  ExecutesAs .addHlBc [0x09] (fun s =>
      { s with h := hiByte (joinBytes s.h s.l + joinBytes s.b s.c), l := loByte (joinBytes s.h s.l + joinBytes s.b s.c), f := packFlags false false (decide (4096 ≤ (joinBytes s.h s.l).toNat % 4096 + (joinBytes s.b s.c).toNat % 4096)) (decide (65536 ≤ (joinBytes s.h s.l).toNat + (joinBytes s.b s.c).toNat)), pc := s.pc + 1, cyc := s.cycAfter 8 }) ∧
  ExecutesAs .addHlDe [0x19] (fun s =>
      { s with h := hiByte (joinBytes s.h s.l + joinBytes s.d s.e), l := loByte (joinBytes s.h s.l + joinBytes s.d s.e), f := packFlags false false (decide (4096 ≤ (joinBytes s.h s.l).toNat % 4096 + (joinBytes s.d s.e).toNat % 4096)) (decide (65536 ≤ (joinBytes s.h s.l).toNat + (joinBytes s.d s.e).toNat)), pc := s.pc + 1, cyc := s.cycAfter 8 }) ∧
  ExecutesAs .addHlHl [0x29] (fun s =>
      { s with h := hiByte (joinBytes s.h s.l + joinBytes s.h s.l), l := loByte (joinBytes s.h s.l + joinBytes s.h s.l), f := packFlags false false (decide (4096 ≤ (joinBytes s.h s.l).toNat % 4096 + (joinBytes s.h s.l).toNat % 4096)) (decide (65536 ≤ (joinBytes s.h s.l).toNat + (joinBytes s.h s.l).toNat)), pc := s.pc + 1, cyc := s.cycAfter 8 })

/-- 46_indirect_loads.md R250, R252, R254. -/
def Obligations.IndirectStoresWriteA : Prop :=
  ExecutesAs .ldIndBcA [0x02] (fun s =>
      { s with mem := Memory.write s.mem (joinBytes s.b s.c).toNat s.a, busLog := .write (joinBytes s.b s.c) s.a :: s.busLog, pc := s.pc + 1, cyc := s.cycAfter 8 }) ∧
  ExecutesAs .ldIndDeA [0x12] (fun s =>
      { s with mem := Memory.write s.mem (joinBytes s.d s.e).toNat s.a, busLog := .write (joinBytes s.d s.e) s.a :: s.busLog, pc := s.pc + 1, cyc := s.cycAfter 8 }) ∧
  ExecutesAs .ldIndHlIncA [0x22] (fun s =>
      { s with mem := Memory.write s.mem (joinBytes s.h s.l).toNat s.a, busLog := .write (joinBytes s.h s.l) s.a :: s.busLog, h := hiByte (joinBytes s.h s.l + 1), l := loByte (joinBytes s.h s.l + 1), pc := s.pc + 1, cyc := s.cycAfter 8 })

/-- 46_indirect_loads.md R251, R253, R255. The byte answered is a free value of the open bus (log 5) and the statement holds whatever it is. -/
def Obligations.IndirectLoadsReadA : Prop :=
  ExecutesAs .ldAIndBc [0x0A] (fun s =>
      { s with a := s.busReply (joinBytes s.b s.c), busLog := .read (joinBytes s.b s.c) (s.busReply (joinBytes s.b s.c)) :: s.busLog, draws := s.drawsAfterRead, pc := s.pc + 1, cyc := s.cycAfter 8 }) ∧
  ExecutesAs .ldAIndDe [0x1A] (fun s =>
      { s with a := s.busReply (joinBytes s.d s.e), busLog := .read (joinBytes s.d s.e) (s.busReply (joinBytes s.d s.e)) :: s.busLog, draws := s.drawsAfterRead, pc := s.pc + 1, cyc := s.cycAfter 8 }) ∧
  ExecutesAs .ldAIndHlInc [0x2A] (fun s =>
      { s with a := s.busReply (joinBytes s.h s.l), busLog := .read (joinBytes s.h s.l) (s.busReply (joinBytes s.h s.l)) :: s.busLog, draws := s.drawsAfterRead, h := hiByte (joinBytes s.h s.l + 1), l := loByte (joinBytes s.h s.l + 1), pc := s.pc + 1, cyc := s.cycAfter 8 })

/-- 46_indirect_loads.md R256; the order of the two bytes is the spec's own decision D5. -/
def Obligations.StoreSpWritesBothBytes : Prop :=
  (∀ a16 : Word, ExecutesAs (.ldIndA16Sp a16) [0x08, hiByte a16, loByte a16] (fun s =>
      { s with mem := Memory.write (Memory.write s.mem a16.toNat (hiByte s.sp)) (a16 + 1).toNat (loByte s.sp), busLog := .write (a16 + 1) (loByte s.sp) :: .write a16 (hiByte s.sp) :: s.busLog, pc := s.pc + 3, cyc := s.cycAfter 20 }))

/-- 47_relative_jumps.md R270. -/
def Obligations.JrJumpsFromTheOpcodeAddress : Prop :=
  (∀ r8 : Byte, ExecutesAs (.jrR8 r8) [0x18, r8] (fun s =>
      { s with pc := s.pc + displacement s.params.jrDispSigned r8, cyc := s.cycAfter 12 }))

/-- 47_relative_jumps.md R271. -/
def Obligations.JrNzJumpsWhenZIsClear : Prop :=
  (∀ r8 : Byte, ExecutesAs (.jrNzR8 r8) [0x20, r8] (fun s =>
      if s.f.getLsbD 7 then { s with pc := s.pc + 2, cyc := s.cycAfter 8 }
      else { s with pc := s.pc + displacement s.params.jrDispSigned r8, cyc := s.cycAfter 12 }))

/-- 48_rotates.md R280 to R283. -/
def Obligations.RotatesOfAClearZNH : Prop :=
  ExecutesAs .rlca [0x07] (fun s =>
      { s with a := s.a.rotateLeft 1, f := packFlags false false false (s.a.getLsbD 7), pc := s.pc + 1, cyc := s.cycAfter 4 }) ∧
  ExecutesAs .rrca [0x0F] (fun s =>
      { s with a := s.a.rotateRight 1, f := packFlags false false false (s.a.getLsbD 0), pc := s.pc + 1, cyc := s.cycAfter 4 }) ∧
  ExecutesAs .rla [0x17] (fun s =>
      { s with a := (s.a <<< 1) ||| (if s.f.getLsbD 4 then 0x01 else 0x00), f := packFlags false false false (s.a.getLsbD 7), pc := s.pc + 1, cyc := s.cycAfter 4 }) ∧
  ExecutesAs .rra [0x1F] (fun s =>
      { s with a := (s.a >>> 1) ||| (if s.f.getLsbD 4 then 0x80 else 0x00), f := packFlags false false false (s.a.getLsbD 0), pc := s.pc + 1, cyc := s.cycAfter 4 })

/-- The frame of the immediate loads and the pair counts (10_state.md R24, R29); PC and CYC move (R125, R126). -/
def Obligations.FrameOfLoadsAndPairCounts : Prop :=
  ∀ (i : Instr) (s t : State), i.family ∈ [.loadR8, .loadPair, .incPair, .decPair] → exec i s = .next t →
    (∀ r, r ≠ .f → r ∉ destRegs i → t.readR8 r = s.readR8 r) ∧ t.f = s.f ∧ SameSpecials s t ∧ t.run = s.run ∧
    t.busLog = s.busLog ∧ t.draws = s.draws ∧ SameBytes s t

/-- The frame of the flag-writing instructions (10_state.md R24, R29): F is written whole, with bits 3..0 zero (R150). -/
def Obligations.FrameOfFlagWriters : Prop :=
  ∀ (i : Instr) (s t : State), i.family ∈ [.incR8, .decR8, .addHl, .rotate] → exec i s = .next t →
    (∀ r, r ≠ .f → r ∉ destRegs i → t.readR8 r = s.readR8 r) ∧ (i.family ∈ [.incR8, .decR8] → t.flagC = s.flagC) ∧
    t.f &&& 0x0F = 0 ∧ SameSpecials s t ∧ t.run = s.run ∧ t.busLog = s.busLog ∧ t.draws = s.draws ∧ SameBytes s t

/-- The frame of the stores (46_indirect_loads.md R250, R252, R254, R256), with the stored addresses computed as the meanings compute them. -/
def Obligations.FrameOfStores : Prop :=
  ∀ (i : Instr) (s t : State), i.family ∈ [.storeA, .storeSp] → exec i s = .next t →
    (∀ r, r ≠ .f → r ∉ destRegs i → t.readR8 r = s.readR8 r) ∧ t.f = s.f ∧ SameSpecials s t ∧ t.run = s.run ∧ t.draws = s.draws ∧
    ∀ addr : Nat, (∀ a ∈ storedAddrs i s, addr ≠ a.toNat) → Memory.read t.mem addr = Memory.read s.mem addr

/-- The frame of the indirect loads (46_indirect_loads.md R251, R253, R255). -/
def Obligations.FrameOfIndirectLoads : Prop :=
  ∀ (i : Instr) (s t : State), i.family = .loadA → exec i s = .next t →
    (∀ r, r ≠ .f → r ∉ destRegs i → t.readR8 r = s.readR8 r) ∧ t.f = s.f ∧ SameSpecials s t ∧ t.run = s.run ∧ SameBytes s t

/-- The frame of the control instructions (42_nop_stop.md R160, R161; 47_relative_jumps.md R270, R271). -/
def Obligations.FrameOfNopStopAndJumps : Prop :=
  ∀ (i : Instr) (s t : State), i.family ∈ [.noOp, .stop, .jump] → exec i s = .next t →
    (∀ r, t.readR8 r = s.readR8 r) ∧ SameSpecials s t ∧ t.run = (if i.family = .stop then .stopped else s.run) ∧
    t.busLog = s.busLog ∧ t.draws = s.draws ∧ SameBytes s t

/-- The flag table of 10_state.md R29 (an inference the spec marks as derived), with the N, cleared and kept columns for every instruction. -/
def Obligations.FlagEffectsOfEveryInstruction : Prop :=
  ∀ (i : Instr) (s t : State), exec i s = .next t →
    match i.family with
    | .incR8 => t.flagN = false ∧ t.flagC = s.flagC ∧ t.f &&& 0x0F = 0
    | .decR8 => t.flagN = true ∧ t.flagC = s.flagC ∧ t.f &&& 0x0F = 0
    | .addHl => t.flagZ = false ∧ t.flagN = false ∧ t.f &&& 0x0F = 0
    | .rotate => t.flagZ = false ∧ t.flagN = false ∧ t.flagH = false ∧ t.f &&& 0x0F = 0
    | .noOp | .stop | .loadR8 | .loadPair | .incPair | .decPair | .storeA | .loadA | .storeSp | .jump => t.f = s.f

/-- 20_memory.md R63 under the two values of the parameter BUS (00_scope.md R8). The form of the free value and its counter are the model's choice (logs 4, 5). -/
def Obligations.BusReadsAreOpenOrFlat : Prop :=
  ∀ (s : State) (addr : Word),
    (s.params.bus = .anyByte →
      s.memRead addr = (Config.busAnswer s.draws s.busLog addr,
        { s with busLog := .read addr (Config.busAnswer s.draws s.busLog addr) :: s.busLog, draws := s.draws + 1 })) ∧
    (s.params.bus = .flat →
      s.memRead addr = (Memory.read s.mem addr.toNat,
        { s with busLog := .read addr (Memory.read s.mem addr.toNat) :: s.busLog }))

/-- The test bus of D19 returns the last byte written at an address. The canonical form in the premise is the model's (log 6) and every step keeps it (EveryStepKeepsTheInvariant). -/
def Obligations.FlatBusReturnsTheLastByteWritten : Prop :=
  ∀ s t u v : State, s.params.bus = .flat → Memory.wf s.mem = true →
    exec .ldIndBcA s = .next t → exec .ldAIndDe t = .next u → exec .ldAIndDe s = .next v →
    u.a = if s.readPair .de = s.readPair .bc then s.a else v.a

/-- 20_memory.md R68 (the spec's own decision D5). The canonical form in the premise is the model's (log 6) and every step keeps it. -/
def Obligations.SpStoreLandsHighByteFirst : Prop :=
  ∀ (a16 : Word) (s t : State), Memory.wf s.mem = true → exec (.ldIndA16Sp a16) s = .next t →
    (Memory.read t.mem a16.toNat).toNat = s.sp.toNat / 256 ∧
    (Memory.read t.mem ((a16.toNat + 1) % 65536)).toNat = s.sp.toNat % 256

/-- 20_memory.md R72 (the spec's own decision D14); the bus record is newest first (log 7). -/
def Obligations.EachTransactionIsIssuedOnceInOrder : Prop :=
  (∀ (i : Instr) (s t : State), exec i s = .next t → t.busLog = (transactions i s).reverse ++ s.busLog) ∧
  (∀ s t : State, s.run = .running → step s = .next t → t.run = .faulted → t.busLog = s.busLog)

/-- 40_execution_cycle.md R125. -/
def Obligations.PcAdvancesByLengthOrJumps : Prop :=
  ∀ (i : Instr) (s t : State), exec i s = .next t →
    match jumpTarget i s with
    | some target => t.pc = target
    | none => t.pc.toNat = (s.pc.toNat + i.length) % 65536

/-- 40_execution_cycle.md R126, 70_reset_and_hazards.md R338. The last clause: no other part of a result depends on CYC. -/
def Obligations.CyclesAreChargedByTheTable : Prop :=
  (∀ (i : Instr) (s t : State), exec i s = .next t → t.cyc = chargedCyc s (cost i s)) ∧
  (∀ s t : State, s.run = .running → step s = .next t → t.run = .faulted → t.cyc = s.cyc) ∧
  (∀ s t : State, step s = .next t →
    ∀ n, ∃ m, step { s with cyc := n } = .next { t with cyc := m })

/-- 10_state.md R35 (never decremented), with the largest cost of 70_reset_and_hazards.md R338. -/
def Obligations.CycNeverDecreases : Prop :=
  ∀ (k : Nat) (s t : State), s.params.cycleWidth = .unbounded → Sys2Proof.core.run k s = .next t →
    s.cyc ≤ t.cyc ∧ t.cyc ≤ s.cyc + 20 * k

/-- 30_encoding.md R95, 41_alu_flags.md R152, in integers. The parameter is the spec's decision D2. -/
def Obligations.JumpDisplacementIsSignedOrUnsigned : Prop :=
  ∀ (r8 : Byte) (s : State),
    ∃ t, exec (.jrR8 r8) s = .next t ∧ t.f = s.f ∧
      (s.params.jrDispSigned = true → (t.pc.toNat : Int) = ((s.pc.toNat : Int) + r8.toInt) % 65536) ∧
      (s.params.jrDispSigned = false → t.pc.toNat = (s.pc.toNat + r8.toNat) % 65536)

/-- The corner cases of 47_relative_jumps.md R270 and R271: with r8 = 0x00 the jump targets itself. -/
def Obligations.SelfJumpLoopsForever : Prop :=
  ∀ (s : State) (k : Nat), s.run = .running → s.params.cycleWidth = .unbounded →
    (s.BytesAt [0x18, 0x00] ∨ (s.BytesAt [0x20, 0x00] ∧ s.flagZ = false)) →
    Sys2Proof.core.run k s = .next { s with cyc := s.cyc + 12 * k }

/-- 40_execution_cycle.md R128, under the step budget of 10_state.md R54. -/
def Obligations.RunEndsWhenRunLeavesRunning : Prop :=
  ∀ (budget : Nat) (s t : State), s.run = .running →
    (runLoop budget s = some t ↔
      ∃ k u, k < budget ∧ Sys2Proof.core.run k s = .next u ∧ u.run = .running ∧ step u = .next t ∧ t.run ≠ .running)

/-- 20_memory.md R60, R79: ProgramMemory is reached only by fetch, and a data-bus read is no fetch. -/
def Obligations.NoMeaningReadsProgramMemory : Prop :=
  ∀ (i : Instr) (s t : State) (p : List Byte), exec i s = .next t →
    exec i { s with prog := p } = .next { t with prog := p }
end

