-- ==== Sys2Proof/Laws/Bits.lean ====
section
/-! SUPPORT. Laws of the byte-order helpers, the ALU and the flag byte. -/

namespace Sys2Proof.Machine

theorem getLsbD_joinBytes (hi lo : Byte) (k : Nat) :
    (joinBytes hi lo).getLsbD k = if k < 8 then lo.getLsbD k else hi.getLsbD (k - 8) :=
  BitVec.getLsbD_append (x := hi) (y := lo) (i := k)

@[simp] theorem hiByte_joinBytes (hi lo : Byte) : hiByte (joinBytes hi lo) = hi := by
  apply BitVec.eq_of_getLsbD_eq
  intro k hk
  simp [hiByte, getLsbD_joinBytes, hk]

@[simp] theorem loByte_joinBytes (hi lo : Byte) : loByte (joinBytes hi lo) = lo := by
  apply BitVec.eq_of_getLsbD_eq
  intro k hk
  simp [loByte, getLsbD_joinBytes, hk]

@[simp] theorem joinBytes_hiByte_loByte (w : Word) : joinBytes (hiByte w) (loByte w) = w := by
  apply BitVec.eq_of_getLsbD_eq
  intro k hk
  rw [getLsbD_joinBytes]
  split
  · simp [loByte, *]
  · have h8 : k - 8 < 8 := by omega
    have hk' : 8 + (k - 8) = k := by omega
    simp [hiByte, h8, hk']

theorem toNat_joinBytes (hi lo : Byte) : (joinBytes hi lo).toNat = hi.toNat * 256 + lo.toNat := by
  have hlo := lo.isLt
  have hhi := hi.isLt
  unfold joinBytes
  rw [BitVec.toNat_append, Nat.shiftLeft_eq, ← Nat.shiftLeft_eq, ← Nat.shiftLeft_add_eq_or_of_lt hlo, Nat.shiftLeft_eq]

/-- A byte masked to its low nibble, as a number. -/
theorem toNat_and_nibble (v : Byte) : (v &&& 0x0F).toNat = v.toNat % 16 := by
  rw [BitVec.toNat_and]
  exact Nat.and_two_pow_sub_one_eq_mod v.toNat 4

/-- A word masked to its low 12 bits, as a number. -/
theorem toNat_and_twelve (v : Word) : (v &&& 0x0FFF).toNat = v.toNat % 4096 := by
  rw [BitVec.toNat_and]
  exact Nat.and_two_pow_sub_one_eq_mod v.toNat 12

@[simp] theorem inc8_result (v : Byte) : (inc8 v).1 = v + 1 := by
  apply BitVec.eq_of_toNat_eq
  simp [inc8]

@[simp] theorem dec8_result (v : Byte) : (dec8 v).1 = v - 1 := by
  apply BitVec.eq_of_toNat_eq
  have := v.isLt
  simp [dec8, BitVec.toNat_ofInt, BitVec.toNat_sub]
  omega

/-- The half-carry of an 8-bit increment: the low nibble was 0xF (R141). -/
theorem inc8_half (v : Byte) : (inc8 v).2 = decide (v.toNat % 16 = 15) := by
  simp only [inc8, toNat_and_nibble, decide_eq_decide]
  omega

/-- The half-carry of an 8-bit decrement: the low nibble was 0 (R142). -/
theorem dec8_half (v : Byte) : (dec8 v).2 = decide (v.toNat % 16 = 0) := by
  simp only [dec8, toNat_and_nibble, decide_eq_decide]
  omega

@[simp] theorem inc16_eq (v : Word) : inc16 v = v + 1 := by
  apply BitVec.eq_of_toNat_eq
  simp [inc16]

@[simp] theorem dec16_eq (v : Word) : dec16 v = v - 1 := by
  apply BitVec.eq_of_toNat_eq
  have := v.isLt
  simp [dec16, BitVec.toNat_ofInt, BitVec.toNat_sub]
  omega

@[simp] theorem add16_result (x y : Word) : (add16 x y).1 = x + y := by
  apply BitVec.eq_of_toNat_eq
  simp [add16]

/-- The two carries of a 16-bit addition as comparisons of exact sums (R144). -/
theorem add16_carries (x y : Word) :
    (add16 x y).2 = (decide (4096 ≤ x.toNat % 4096 + y.toNat % 4096), decide (65536 ≤ x.toNat + y.toNat)) := by
  simp only [add16, toNat_and_twelve, Prod.mk.injEq, decide_eq_decide]
  omega

/-- The flags read back from a packed flag byte (R150). -/
theorem packFlags_bits (z n h c : Bool) :
    (packFlags z n h c).getLsbD 7 = z ∧ (packFlags z n h c).getLsbD 6 = n ∧ (packFlags z n h c).getLsbD 5 = h ∧
      (packFlags z n h c).getLsbD 4 = c := by
  cases z <;> cases n <;> cases h <;> cases c <;> decide

@[simp] theorem packFlags_low (z n h c : Bool) : packFlags z n h c &&& 15#8 = 0#8 := by
  cases z <;> cases n <;> cases h <;> cases c <;> decide

end Sys2Proof.Machine
end

