-- ==== Sys2Proof/Laws/Decode.lean ====
section
/-! SUPPORT. Laws of the dispatch table and the decoder. -/

namespace Sys2Proof

/-- An entry found is a row of the table. -/
theorem dispatch_mem {op : Byte} {entry : Entry} (h : dispatch op = some entry) : (op, entry) ∈ dispatchTable := by
  have key : ∀ (table : List (Byte × Entry)), table.lookup op = some entry → (op, entry) ∈ table := by
    intro table
    induction table with
    | nil => simp
    | cons row rest ih =>
      obtain ⟨k, e⟩ := row
      rw [List.lookup_cons]
      split
      · rename_i heq
        intro hsome
        simp_all
      · intro hrest
        exact List.mem_cons_of_mem _ (ih hrest)
  exact key dispatchTable h

/-- No opcode has two rows. -/
theorem dispatchTable_opcodes_nodup : (dispatchTable.map Prod.fst).Nodup := by decide

/-- The table has the 45 rows of R97. -/
theorem dispatchTable_length : dispatchTable.length = 45 := rfl

/-- Decoding an instruction: the opcode was fetched, its entry found, and the operands fetched. -/
theorem decodeAt_instr {byteAt : Nat → Option Byte} {i : Instr} (h : decodeAt byteAt = .instr i) :
    ∃ op entry, byteAt 0 = some op ∧ dispatch op = some entry ∧ decodeOperands byteAt op entry = .instr i := by
  unfold decodeAt at h
  split at h
  · cases h
  · rename_i op hop
    split at h
    · cases h
    · rename_i entry hentry
      exact ⟨op, entry, hop, hentry, h⟩

/-- A decoder that is given the same first three bytes gives the same answer (R101, R123). -/
theorem decodeAt_congr {f g : Nat → Option Byte} (h0 : f 0 = g 0) (h1 : f 1 = g 1) (h2 : f 2 = g 2) :
    decodeAt f = decodeAt g := by
  unfold decodeAt
  rw [h0]
  split
  · rfl
  · split
    · rfl
    · rename_i entry _
      cases entry <;> simp [decodeOperands, h1, h2]

/-- The bytes fetched of an instruction, by format: its opcode's entry, completed by the operand bytes, is it (R91). -/
theorem fetchedBytes_cases (i : Instr) :
    (∃ op, i.fetchedBytes = [op] ∧ (dispatch op = some (.op i) ∨ dispatch op = some (.stop2 i))) ∨
    (∃ op v mk, i.fetchedBytes = [op, v] ∧ (dispatch op = some (.d8 mk) ∨ dispatch op = some (.r8 mk)) ∧ mk v = i) ∨
    (∃ op hi lo mk, i.fetchedBytes = [op, hi, lo] ∧ (dispatch op = some (.d16 mk) ∨ dispatch op = some (.a16 mk)) ∧
      mk (joinBytes hi lo) = i) := by
  cases i <;> first
    | exact .inl ⟨_, rfl, .inl rfl⟩
    | exact .inl ⟨_, rfl, .inr rfl⟩
    | exact .inr (.inl ⟨_, _, _, rfl, .inl rfl, rfl⟩)
    | exact .inr (.inl ⟨_, _, _, rfl, .inr rfl, rfl⟩)
    | exact .inr (.inr ⟨_, _, _, _, rfl, .inl rfl, congrArg _ (Machine.joinBytes_hiByte_loByte _)⟩)
    | exact .inr (.inr ⟨_, _, _, _, rfl, .inr rfl, congrArg _ (Machine.joinBytes_hiByte_loByte _)⟩)

/-- Bytes that agree with those fetched of an instruction decode to it. -/
theorem decodeAt_fetchedBytes (i : Instr) {f : Nat → Option Byte}
    (h : ∀ k < i.fetchedBytes.length, f k = i.fetchedBytes[k]?) : decodeAt f = .instr i := by
  obtain ⟨op, hb, hd⟩ | ⟨op, v, mk, hb, hd, hi⟩ | ⟨op, hi', lo, mk, hb, hd, hi⟩ := fetchedBytes_cases i <;> rw [hb] at h
  · have h0 : f 0 = some op := h 0 (by simp)
    rcases hd with hd | hd <;> simp [decodeAt, decodeOperands, h0, hd]
  · have h0 : f 0 = some op := h 0 (by simp)
    have h1 : f 1 = some v := h 1 (by simp)
    rcases hd with hd | hd <;> simp [decodeAt, decodeOperands, h0, h1, hd, hi]
  · have h0 : f 0 = some op := h 0 (by simp)
    have h1 : f 1 = some hi' := h 1 (by simp)
    have h2 : f 2 = some lo := h 2 (by simp)
    rcases hd with hd | hd <;> simp [decodeAt, decodeOperands, h0, h1, h2, hd, hi]

/-- Where the bytes of an instruction are fetched up to an offset and the byte there is not, decoding stops at it. -/
theorem decodeAt_short (i : Instr) {f : Nat → Option Byte} {k : Nat} (hk : k < i.fetchedBytes.length)
    (h : ∀ j < k, f j = i.fetchedBytes[j]?) (hn : f k = none) :
    decodeAt f = .outOfBounds k (if k = 0 then none else i.fetchedBytes.head?) := by
  match k, hk, h, hn with
  | 0, _, _, hn => simp [decodeAt, hn]
  | 1, hk, h, hn =>
    have h0 := h 0 (by omega)
    obtain ⟨op, hb, _⟩ | ⟨op, v, mk, hb, hd | hd, _⟩ | ⟨op, hi', lo, mk, hb, hd | hd, _⟩ := fetchedBytes_cases i <;>
      rw [hb] at h0 hk <;> simp_all [decodeAt, decodeOperands]
  | 2, hk, h, hn =>
    have h0 := h 0 (by omega)
    have h1 := h 1 (by omega)
    obtain ⟨op, hb, _⟩ | ⟨op, v, mk, hb, hd | hd, _⟩ | ⟨op, hi', lo, mk, hb, hd | hd, _⟩ := fetchedBytes_cases i <;>
      rw [hb] at h0 h1 hk <;> simp_all [decodeAt, decodeOperands]
  | k + 3, hk, _, _ =>
    obtain ⟨op, hb, _⟩ | ⟨op, v, mk, hb, _, _⟩ | ⟨op, hi', lo, mk, hb, _, _⟩ := fetchedBytes_cases i <;>
      rw [hb] at hk <;> simp at hk

end Sys2Proof
end

