-- ==== Sys2Proof/Laws/Memory.lean ====
section
/-! SUPPORT. Laws of the canonical memory: a write keeps the form, a read after a write gives the written byte, and
every other address keeps its byte. -/

namespace Sys2Proof.Machine

/-- One step of the canonical form. -/
theorem Memory.wfFrom_cons {low k : Nat} {v : Byte} {m : Memory} :
    Memory.wfFrom low ((k, v) :: m) = true ↔
      low ≤ k ∧ k < 0x10000 ∧ v ≠ Memory.unlisted ∧ Memory.wfFrom (k + 1) m = true := by
  simp [Memory.wfFrom, and_assoc]

/-- A memory listed from a higher address is listed from a lower one. -/
theorem Memory.wfFrom_mono {low low' : Nat} (h : low ≤ low') :
    ∀ {m : Memory}, Memory.wfFrom low' m = true → Memory.wfFrom low m = true
  | [], _ => rfl
  | (k, v) :: m, hw => by
    rw [Memory.wfFrom_cons] at hw ⊢
    exact ⟨h.trans hw.1, hw.2⟩

/-- No address below the first listed one has a cell. -/
theorem Memory.read_below {addr : Nat} :
    ∀ {low : Nat} {m : Memory}, Memory.wfFrom low m = true → addr < low → Memory.read m addr = Memory.unlisted
  | _, [], _, _ => rfl
  | low, (k, v) :: m, hw, h => by
    rw [Memory.wfFrom_cons] at hw
    have hne : addr ≠ k := by omega
    rw [Memory.read, if_neg hne]
    exact Memory.read_below hw.2.2.2 (by omega)

/-- Putting one cell in front keeps the form. -/
theorem Memory.wfFrom_consCell {low addr : Nat} {v : Byte} {m : Memory} (hl : low ≤ addr) (ha : addr < 0x10000)
    (hw : Memory.wfFrom (addr + 1) m = true) : Memory.wfFrom low (Memory.cons addr v m) = true := by
  unfold Memory.cons
  split
  · exact Memory.wfFrom_mono (by omega) hw
  · rename_i hv
    exact Memory.wfFrom_cons.mpr ⟨hl, ha, hv, hw⟩

/-- A write keeps the canonical form, from any lower bound below its address. -/
theorem Memory.wfFrom_write {addr : Nat} {v : Byte} (ha : addr < 0x10000) :
    ∀ {low : Nat} {m : Memory}, low ≤ addr → Memory.wfFrom low m = true →
      Memory.wfFrom low (Memory.write m addr v) = true
  | low, [], hl, _ => Memory.wfFrom_consCell hl ha rfl
  | low, (k, w) :: m, hl, hw => by
    have hw' := Memory.wfFrom_cons.mp hw
    unfold Memory.write
    split
    · rename_i hlt
      exact Memory.wfFrom_consCell hl ha (Memory.wfFrom_cons.mpr ⟨hlt, hw'.2⟩)
    · split
      · rename_i _ heq
        subst heq
        exact Memory.wfFrom_consCell hl ha hw'.2.2.2
      · exact Memory.wfFrom_cons.mpr ⟨hw'.1, hw'.2.1, hw'.2.2.1,
          Memory.wfFrom_write ha (by omega) hw'.2.2.2⟩

/-- Every write to a data-bus address keeps the canonical form. -/
theorem Memory.wf_write {m : Memory} (addr : Word) (v : Byte) (hw : Memory.wf m = true) :
    Memory.wf (Memory.write m addr.toNat v) = true :=
  Memory.wfFrom_write addr.isLt (Nat.zero_le _) hw

/-- Reading a cell put in front of a memory that lists only higher addresses. -/
theorem Memory.read_cons_same {addr : Nat} {v : Byte} {m : Memory} (hw : Memory.wfFrom (addr + 1) m = true) :
    Memory.read (Memory.cons addr v m) addr = v := by
  unfold Memory.cons
  split
  · rename_i hv
    rw [Memory.read_below hw (Nat.lt_succ_self addr), hv]
  · simp [Memory.read]

/-- Reading past a cell put in front. -/
theorem Memory.read_cons_other {addr other : Nat} {v : Byte} {m : Memory} (h : other ≠ addr) :
    Memory.read (Memory.cons addr v m) other = Memory.read m other := by
  unfold Memory.cons
  split
  · rfl
  · simp [Memory.read, h]

/-- A read after a write to the same address gives the byte written. -/
theorem Memory.read_write_same {addr : Nat} {v : Byte} :
    ∀ {low : Nat} {m : Memory}, Memory.wfFrom low m = true → Memory.read (Memory.write m addr v) addr = v
  | _, [], _ => Memory.read_cons_same rfl
  | low, (k, w) :: m, hw => by
    have hw' := Memory.wfFrom_cons.mp hw
    unfold Memory.write
    split
    · rename_i hlt
      exact Memory.read_cons_same (Memory.wfFrom_cons.mpr ⟨hlt, hw'.2⟩)
    · split
      · rename_i _ heq
        subst heq
        exact Memory.read_cons_same hw'.2.2.2
      · rename_i _ hne
        rw [Memory.read, if_neg hne]
        exact Memory.read_write_same hw'.2.2.2

/-- A write leaves every other address alone. -/
theorem Memory.read_write_other {addr other : Nat} {v : Byte} (h : other ≠ addr) :
    ∀ {m : Memory}, Memory.read (Memory.write m addr v) other = Memory.read m other
  | [] => Memory.read_cons_other h
  | (k, w) :: m => by
    unfold Memory.write
    split
    · exact Memory.read_cons_other h
    · split
      · rename_i _ heq
        subst heq
        rw [Memory.read_cons_other h, Memory.read, if_neg h]
      · rw [Memory.read, Memory.read]
        split
        · rfl
        · exact Memory.read_write_other h

end Sys2Proof.Machine
end

