-- ==== Sys2Proof/Laws/State.lean ====
section
/-! SUPPORT. What each update of State does to each field, so that no later proof unfolds a record update. -/

namespace Sys2Proof.Machine

/-! ### Registers -/

@[simp] theorem readR8_writeR8 (s : State) (r r' : Reg8) (v : Byte) :
    (s.writeR8 r v).readR8 r' = if r' = r then v else s.readR8 r' := by
  cases r <;> cases r' <;> rfl

@[simp] theorem readPair_writePair_same (s : State) (rr : Pair) (v : Word) : (s.writePair rr v).readPair rr = v := by
  cases rr <;> simp [State.readPair, State.writePair, Pair.hi, Pair.lo]

theorem readR8_writePair (s : State) (rr : Pair) (r : Reg8) (v : Word) :
    (s.writePair rr v).readR8 r = if r = rr.lo then loByte v else if r = rr.hi then hiByte v else s.readR8 r := by
  simp [State.writePair]

@[simp] theorem writeR8_a (s : State) (r : Reg8) (v : Byte) : (s.writeR8 r v).a = if r = .a then v else s.a := by
  cases r <;> rfl
@[simp] theorem writeR8_f (s : State) (r : Reg8) (v : Byte) : (s.writeR8 r v).f = if r = .f then v else s.f := by
  cases r <;> rfl
@[simp] theorem writeR8_b (s : State) (r : Reg8) (v : Byte) : (s.writeR8 r v).b = if r = .b then v else s.b := by
  cases r <;> rfl
@[simp] theorem writeR8_c (s : State) (r : Reg8) (v : Byte) : (s.writeR8 r v).c = if r = .c then v else s.c := by
  cases r <;> rfl
@[simp] theorem writeR8_d (s : State) (r : Reg8) (v : Byte) : (s.writeR8 r v).d = if r = .d then v else s.d := by
  cases r <;> rfl
@[simp] theorem writeR8_e (s : State) (r : Reg8) (v : Byte) : (s.writeR8 r v).e = if r = .e then v else s.e := by
  cases r <;> rfl
@[simp] theorem writeR8_h (s : State) (r : Reg8) (v : Byte) : (s.writeR8 r v).h = if r = .h then v else s.h := by
  cases r <;> rfl
@[simp] theorem writeR8_l (s : State) (r : Reg8) (v : Byte) : (s.writeR8 r v).l = if r = .l then v else s.l := by
  cases r <;> rfl
@[simp] theorem writeR8_sp (s : State) (r : Reg8) (v : Byte) : (s.writeR8 r v).sp = s.sp := by cases r <;> rfl
@[simp] theorem writeR8_pc (s : State) (r : Reg8) (v : Byte) : (s.writeR8 r v).pc = s.pc := by cases r <;> rfl
@[simp] theorem writeR8_cyc (s : State) (r : Reg8) (v : Byte) : (s.writeR8 r v).cyc = s.cyc := by cases r <;> rfl
@[simp] theorem writeR8_run (s : State) (r : Reg8) (v : Byte) : (s.writeR8 r v).run = s.run := by cases r <;> rfl
@[simp] theorem writeR8_fr (s : State) (r : Reg8) (v : Byte) : (s.writeR8 r v).fr = s.fr := by cases r <;> rfl
@[simp] theorem writeR8_prog (s : State) (r : Reg8) (v : Byte) : (s.writeR8 r v).prog = s.prog := by cases r <;> rfl
@[simp] theorem writeR8_params (s : State) (r : Reg8) (v : Byte) : (s.writeR8 r v).params = s.params := by cases r <;> rfl
@[simp] theorem writeR8_mem (s : State) (r : Reg8) (v : Byte) : (s.writeR8 r v).mem = s.mem := by cases r <;> rfl
@[simp] theorem writeR8_busLog (s : State) (r : Reg8) (v : Byte) : (s.writeR8 r v).busLog = s.busLog := by cases r <;> rfl
@[simp] theorem writeR8_draws (s : State) (r : Reg8) (v : Byte) : (s.writeR8 r v).draws = s.draws := by cases r <;> rfl
@[simp] theorem writePair_sp (s : State) (rr : Pair) (v : Word) : (s.writePair rr v).sp = s.sp := by cases rr <;> rfl
@[simp] theorem writePair_pc (s : State) (rr : Pair) (v : Word) : (s.writePair rr v).pc = s.pc := by cases rr <;> rfl
@[simp] theorem writePair_cyc (s : State) (rr : Pair) (v : Word) : (s.writePair rr v).cyc = s.cyc := by cases rr <;> rfl
@[simp] theorem writePair_run (s : State) (rr : Pair) (v : Word) : (s.writePair rr v).run = s.run := by cases rr <;> rfl
@[simp] theorem writePair_fr (s : State) (rr : Pair) (v : Word) : (s.writePair rr v).fr = s.fr := by cases rr <;> rfl
@[simp] theorem writePair_prog (s : State) (rr : Pair) (v : Word) : (s.writePair rr v).prog = s.prog := by cases rr <;> rfl
@[simp] theorem writePair_params (s : State) (rr : Pair) (v : Word) : (s.writePair rr v).params = s.params := by cases rr <;> rfl
@[simp] theorem writePair_mem (s : State) (rr : Pair) (v : Word) : (s.writePair rr v).mem = s.mem := by cases rr <;> rfl
@[simp] theorem writePair_busLog (s : State) (rr : Pair) (v : Word) : (s.writePair rr v).busLog = s.busLog := by cases rr <;> rfl
@[simp] theorem writePair_draws (s : State) (rr : Pair) (v : Word) : (s.writePair rr v).draws = s.draws := by cases rr <;> rfl
theorem readPair_af (s : State) : s.readPair .af = joinBytes s.a s.f := rfl
theorem readPair_bc (s : State) : s.readPair .bc = joinBytes s.b s.c := rfl
theorem readPair_de (s : State) : s.readPair .de = joinBytes s.d s.e := rfl
theorem readPair_hl (s : State) : s.readPair .hl = joinBytes s.h s.l := rfl
theorem writePair_af (s : State) (v : Word) : s.writePair .af v = { s with a := hiByte v, f := loByte v } := rfl
theorem writePair_bc (s : State) (v : Word) : s.writePair .bc v = { s with b := hiByte v, c := loByte v } := rfl
theorem writePair_de (s : State) (v : Word) : s.writePair .de v = { s with d := hiByte v, e := loByte v } := rfl
theorem writePair_hl (s : State) (v : Word) : s.writePair .hl v = { s with h := hiByte v, l := loByte v } := rfl

/-- The program-counter incrementer is 16-bit addition (R153). -/
theorem advance_eq (s : State) (len : Nat) : s.advance len = s.jump (s.pc + BitVec.ofNat 16 len) := by
  have : BitVec.ofNat 16 (s.pc.toNat + len) = s.pc + BitVec.ofNat 16 len := by
    rw [BitVec.ofNat_add, BitVec.ofNat_toNat, BitVec.setWidth_eq]
  rw [State.advance, this]

@[simp] theorem finish_pc (s : State) (len n : Nat) : (s.finish len n).pc = s.pc + BitVec.ofNat 16 len := by
  rw [State.finish, advance_eq]
  rfl

/-- The end of an instruction as one record update. -/
theorem finish_eq (s : State) (len n : Nat) :
    s.finish len n = { s with pc := s.pc + BitVec.ofNat 16 len, cyc := s.cycAfter n } := by
  rw [State.finish, advance_eq]
  rfl

/-! ### writeFlags -/

@[simp] theorem writeFlags_a (s : State) (z n h c : Bool) : (s.writeFlags z n h c).a = s.a := rfl
@[simp] theorem writeFlags_f (s : State) (z n h c : Bool) : (s.writeFlags z n h c).f = packFlags z n h c := rfl
@[simp] theorem writeFlags_b (s : State) (z n h c : Bool) : (s.writeFlags z n h c).b = s.b := rfl
@[simp] theorem writeFlags_c (s : State) (z n h c : Bool) : (s.writeFlags z n h c).c = s.c := rfl
@[simp] theorem writeFlags_d (s : State) (z n h c : Bool) : (s.writeFlags z n h c).d = s.d := rfl
@[simp] theorem writeFlags_e (s : State) (z n h c : Bool) : (s.writeFlags z n h c).e = s.e := rfl
@[simp] theorem writeFlags_h (s : State) (z n h c : Bool) : (s.writeFlags z n h c).h = s.h := rfl
@[simp] theorem writeFlags_l (s : State) (z n h c : Bool) : (s.writeFlags z n h c).l = s.l := rfl
@[simp] theorem writeFlags_sp (s : State) (z n h c : Bool) : (s.writeFlags z n h c).sp = s.sp := rfl
@[simp] theorem writeFlags_pc (s : State) (z n h c : Bool) : (s.writeFlags z n h c).pc = s.pc := rfl
@[simp] theorem writeFlags_cyc (s : State) (z n h c : Bool) : (s.writeFlags z n h c).cyc = s.cyc := rfl
@[simp] theorem writeFlags_run (s : State) (z n h c : Bool) : (s.writeFlags z n h c).run = s.run := rfl
@[simp] theorem writeFlags_fr (s : State) (z n h c : Bool) : (s.writeFlags z n h c).fr = s.fr := rfl
@[simp] theorem writeFlags_prog (s : State) (z n h c : Bool) : (s.writeFlags z n h c).prog = s.prog := rfl
@[simp] theorem writeFlags_params (s : State) (z n h c : Bool) : (s.writeFlags z n h c).params = s.params := rfl
@[simp] theorem writeFlags_mem (s : State) (z n h c : Bool) : (s.writeFlags z n h c).mem = s.mem := rfl
@[simp] theorem writeFlags_busLog (s : State) (z n h c : Bool) : (s.writeFlags z n h c).busLog = s.busLog := rfl
@[simp] theorem writeFlags_draws (s : State) (z n h c : Bool) : (s.writeFlags z n h c).draws = s.draws := rfl

/-! ### memRead -/

@[simp] theorem memRead_reply (s : State) (addr : Word) : (s.memRead addr).1 = s.busReply addr := rfl
@[simp] theorem memRead_a (s : State) (addr : Word) : (s.memRead addr).2.a = s.a := rfl
@[simp] theorem memRead_f (s : State) (addr : Word) : (s.memRead addr).2.f = s.f := rfl
@[simp] theorem memRead_b (s : State) (addr : Word) : (s.memRead addr).2.b = s.b := rfl
@[simp] theorem memRead_c (s : State) (addr : Word) : (s.memRead addr).2.c = s.c := rfl
@[simp] theorem memRead_d (s : State) (addr : Word) : (s.memRead addr).2.d = s.d := rfl
@[simp] theorem memRead_e (s : State) (addr : Word) : (s.memRead addr).2.e = s.e := rfl
@[simp] theorem memRead_h (s : State) (addr : Word) : (s.memRead addr).2.h = s.h := rfl
@[simp] theorem memRead_l (s : State) (addr : Word) : (s.memRead addr).2.l = s.l := rfl
@[simp] theorem memRead_sp (s : State) (addr : Word) : (s.memRead addr).2.sp = s.sp := rfl
@[simp] theorem memRead_pc (s : State) (addr : Word) : (s.memRead addr).2.pc = s.pc := rfl
@[simp] theorem memRead_cyc (s : State) (addr : Word) : (s.memRead addr).2.cyc = s.cyc := rfl
@[simp] theorem memRead_run (s : State) (addr : Word) : (s.memRead addr).2.run = s.run := rfl
@[simp] theorem memRead_fr (s : State) (addr : Word) : (s.memRead addr).2.fr = s.fr := rfl
@[simp] theorem memRead_prog (s : State) (addr : Word) : (s.memRead addr).2.prog = s.prog := rfl
@[simp] theorem memRead_params (s : State) (addr : Word) : (s.memRead addr).2.params = s.params := rfl
@[simp] theorem memRead_mem (s : State) (addr : Word) : (s.memRead addr).2.mem = s.mem := rfl
@[simp] theorem memRead_busLog (s : State) (addr : Word) : (s.memRead addr).2.busLog = .read addr (s.busReply addr) :: s.busLog := rfl
@[simp] theorem memRead_draws (s : State) (addr : Word) : (s.memRead addr).2.draws = s.drawsAfterRead := rfl

/-! ### memWrite -/

@[simp] theorem memWrite_a (s : State) (addr : Word) (v : Byte) : (s.memWrite addr v).a = s.a := rfl
@[simp] theorem memWrite_f (s : State) (addr : Word) (v : Byte) : (s.memWrite addr v).f = s.f := rfl
@[simp] theorem memWrite_b (s : State) (addr : Word) (v : Byte) : (s.memWrite addr v).b = s.b := rfl
@[simp] theorem memWrite_c (s : State) (addr : Word) (v : Byte) : (s.memWrite addr v).c = s.c := rfl
@[simp] theorem memWrite_d (s : State) (addr : Word) (v : Byte) : (s.memWrite addr v).d = s.d := rfl
@[simp] theorem memWrite_e (s : State) (addr : Word) (v : Byte) : (s.memWrite addr v).e = s.e := rfl
@[simp] theorem memWrite_h (s : State) (addr : Word) (v : Byte) : (s.memWrite addr v).h = s.h := rfl
@[simp] theorem memWrite_l (s : State) (addr : Word) (v : Byte) : (s.memWrite addr v).l = s.l := rfl
@[simp] theorem memWrite_sp (s : State) (addr : Word) (v : Byte) : (s.memWrite addr v).sp = s.sp := rfl
@[simp] theorem memWrite_pc (s : State) (addr : Word) (v : Byte) : (s.memWrite addr v).pc = s.pc := rfl
@[simp] theorem memWrite_cyc (s : State) (addr : Word) (v : Byte) : (s.memWrite addr v).cyc = s.cyc := rfl
@[simp] theorem memWrite_run (s : State) (addr : Word) (v : Byte) : (s.memWrite addr v).run = s.run := rfl
@[simp] theorem memWrite_fr (s : State) (addr : Word) (v : Byte) : (s.memWrite addr v).fr = s.fr := rfl
@[simp] theorem memWrite_prog (s : State) (addr : Word) (v : Byte) : (s.memWrite addr v).prog = s.prog := rfl
@[simp] theorem memWrite_params (s : State) (addr : Word) (v : Byte) : (s.memWrite addr v).params = s.params := rfl
@[simp] theorem memWrite_mem (s : State) (addr : Word) (v : Byte) : (s.memWrite addr v).mem = Memory.write s.mem addr.toNat v := rfl
@[simp] theorem memWrite_busLog (s : State) (addr : Word) (v : Byte) : (s.memWrite addr v).busLog = .write addr v :: s.busLog := rfl
@[simp] theorem memWrite_draws (s : State) (addr : Word) (v : Byte) : (s.memWrite addr v).draws = s.draws := rfl

/-! ### jump -/

@[simp] theorem jump_a (s : State) (t : Word) : (s.jump t).a = s.a := rfl
@[simp] theorem jump_f (s : State) (t : Word) : (s.jump t).f = s.f := rfl
@[simp] theorem jump_b (s : State) (t : Word) : (s.jump t).b = s.b := rfl
@[simp] theorem jump_c (s : State) (t : Word) : (s.jump t).c = s.c := rfl
@[simp] theorem jump_d (s : State) (t : Word) : (s.jump t).d = s.d := rfl
@[simp] theorem jump_e (s : State) (t : Word) : (s.jump t).e = s.e := rfl
@[simp] theorem jump_h (s : State) (t : Word) : (s.jump t).h = s.h := rfl
@[simp] theorem jump_l (s : State) (t : Word) : (s.jump t).l = s.l := rfl
@[simp] theorem jump_sp (s : State) (t : Word) : (s.jump t).sp = s.sp := rfl
@[simp] theorem jump_pc (s : State) (t : Word) : (s.jump t).pc = t := rfl
@[simp] theorem jump_cyc (s : State) (t : Word) : (s.jump t).cyc = s.cyc := rfl
@[simp] theorem jump_run (s : State) (t : Word) : (s.jump t).run = s.run := rfl
@[simp] theorem jump_fr (s : State) (t : Word) : (s.jump t).fr = s.fr := rfl
@[simp] theorem jump_prog (s : State) (t : Word) : (s.jump t).prog = s.prog := rfl
@[simp] theorem jump_params (s : State) (t : Word) : (s.jump t).params = s.params := rfl
@[simp] theorem jump_mem (s : State) (t : Word) : (s.jump t).mem = s.mem := rfl
@[simp] theorem jump_busLog (s : State) (t : Word) : (s.jump t).busLog = s.busLog := rfl
@[simp] theorem jump_draws (s : State) (t : Word) : (s.jump t).draws = s.draws := rfl

/-! ### tick -/

@[simp] theorem tick_a (s : State) (n : Nat) : (s.tick n).a = s.a := rfl
@[simp] theorem tick_f (s : State) (n : Nat) : (s.tick n).f = s.f := rfl
@[simp] theorem tick_b (s : State) (n : Nat) : (s.tick n).b = s.b := rfl
@[simp] theorem tick_c (s : State) (n : Nat) : (s.tick n).c = s.c := rfl
@[simp] theorem tick_d (s : State) (n : Nat) : (s.tick n).d = s.d := rfl
@[simp] theorem tick_e (s : State) (n : Nat) : (s.tick n).e = s.e := rfl
@[simp] theorem tick_h (s : State) (n : Nat) : (s.tick n).h = s.h := rfl
@[simp] theorem tick_l (s : State) (n : Nat) : (s.tick n).l = s.l := rfl
@[simp] theorem tick_sp (s : State) (n : Nat) : (s.tick n).sp = s.sp := rfl
@[simp] theorem tick_pc (s : State) (n : Nat) : (s.tick n).pc = s.pc := rfl
@[simp] theorem tick_cyc (s : State) (n : Nat) : (s.tick n).cyc = s.cycAfter n := rfl
@[simp] theorem tick_run (s : State) (n : Nat) : (s.tick n).run = s.run := rfl
@[simp] theorem tick_fr (s : State) (n : Nat) : (s.tick n).fr = s.fr := rfl
@[simp] theorem tick_prog (s : State) (n : Nat) : (s.tick n).prog = s.prog := rfl
@[simp] theorem tick_params (s : State) (n : Nat) : (s.tick n).params = s.params := rfl
@[simp] theorem tick_mem (s : State) (n : Nat) : (s.tick n).mem = s.mem := rfl
@[simp] theorem tick_busLog (s : State) (n : Nat) : (s.tick n).busLog = s.busLog := rfl
@[simp] theorem tick_draws (s : State) (n : Nat) : (s.tick n).draws = s.draws := rfl

/-! ### finish -/

@[simp] theorem finish_a (s : State) (len n : Nat) : (s.finish len n).a = s.a := rfl
@[simp] theorem finish_f (s : State) (len n : Nat) : (s.finish len n).f = s.f := rfl
@[simp] theorem finish_b (s : State) (len n : Nat) : (s.finish len n).b = s.b := rfl
@[simp] theorem finish_c (s : State) (len n : Nat) : (s.finish len n).c = s.c := rfl
@[simp] theorem finish_d (s : State) (len n : Nat) : (s.finish len n).d = s.d := rfl
@[simp] theorem finish_e (s : State) (len n : Nat) : (s.finish len n).e = s.e := rfl
@[simp] theorem finish_h (s : State) (len n : Nat) : (s.finish len n).h = s.h := rfl
@[simp] theorem finish_l (s : State) (len n : Nat) : (s.finish len n).l = s.l := rfl
@[simp] theorem finish_sp (s : State) (len n : Nat) : (s.finish len n).sp = s.sp := rfl
@[simp] theorem finish_cyc (s : State) (len n : Nat) : (s.finish len n).cyc = s.cycAfter n := rfl
@[simp] theorem finish_run (s : State) (len n : Nat) : (s.finish len n).run = s.run := rfl
@[simp] theorem finish_fr (s : State) (len n : Nat) : (s.finish len n).fr = s.fr := rfl
@[simp] theorem finish_prog (s : State) (len n : Nat) : (s.finish len n).prog = s.prog := rfl
@[simp] theorem finish_params (s : State) (len n : Nat) : (s.finish len n).params = s.params := rfl
@[simp] theorem finish_mem (s : State) (len n : Nat) : (s.finish len n).mem = s.mem := rfl
@[simp] theorem finish_busLog (s : State) (len n : Nat) : (s.finish len n).busLog = s.busLog := rfl
@[simp] theorem finish_draws (s : State) (len n : Nat) : (s.finish len n).draws = s.draws := rfl

/-! ### stopCore -/

@[simp] theorem stopCore_a (s : State) : (s.stopCore).a = s.a := rfl
@[simp] theorem stopCore_f (s : State) : (s.stopCore).f = s.f := rfl
@[simp] theorem stopCore_b (s : State) : (s.stopCore).b = s.b := rfl
@[simp] theorem stopCore_c (s : State) : (s.stopCore).c = s.c := rfl
@[simp] theorem stopCore_d (s : State) : (s.stopCore).d = s.d := rfl
@[simp] theorem stopCore_e (s : State) : (s.stopCore).e = s.e := rfl
@[simp] theorem stopCore_h (s : State) : (s.stopCore).h = s.h := rfl
@[simp] theorem stopCore_l (s : State) : (s.stopCore).l = s.l := rfl
@[simp] theorem stopCore_sp (s : State) : (s.stopCore).sp = s.sp := rfl
@[simp] theorem stopCore_pc (s : State) : (s.stopCore).pc = s.pc := rfl
@[simp] theorem stopCore_cyc (s : State) : (s.stopCore).cyc = s.cyc := rfl
@[simp] theorem stopCore_run (s : State) : (s.stopCore).run = .stopped := rfl
@[simp] theorem stopCore_fr (s : State) : (s.stopCore).fr = s.fr := rfl
@[simp] theorem stopCore_prog (s : State) : (s.stopCore).prog = s.prog := rfl
@[simp] theorem stopCore_params (s : State) : (s.stopCore).params = s.params := rfl
@[simp] theorem stopCore_mem (s : State) : (s.stopCore).mem = s.mem := rfl
@[simp] theorem stopCore_busLog (s : State) : (s.stopCore).busLog = s.busLog := rfl
@[simp] theorem stopCore_draws (s : State) : (s.stopCore).draws = s.draws := rfl

/-! ### takeFault -/

@[simp] theorem takeFault_a (s : State) (k : Fault) (op : Option Byte) (i : Option Nat) : (s.takeFault k op i).a = s.a := rfl
@[simp] theorem takeFault_f (s : State) (k : Fault) (op : Option Byte) (i : Option Nat) : (s.takeFault k op i).f = s.f := rfl
@[simp] theorem takeFault_b (s : State) (k : Fault) (op : Option Byte) (i : Option Nat) : (s.takeFault k op i).b = s.b := rfl
@[simp] theorem takeFault_c (s : State) (k : Fault) (op : Option Byte) (i : Option Nat) : (s.takeFault k op i).c = s.c := rfl
@[simp] theorem takeFault_d (s : State) (k : Fault) (op : Option Byte) (i : Option Nat) : (s.takeFault k op i).d = s.d := rfl
@[simp] theorem takeFault_e (s : State) (k : Fault) (op : Option Byte) (i : Option Nat) : (s.takeFault k op i).e = s.e := rfl
@[simp] theorem takeFault_h (s : State) (k : Fault) (op : Option Byte) (i : Option Nat) : (s.takeFault k op i).h = s.h := rfl
@[simp] theorem takeFault_l (s : State) (k : Fault) (op : Option Byte) (i : Option Nat) : (s.takeFault k op i).l = s.l := rfl
@[simp] theorem takeFault_sp (s : State) (k : Fault) (op : Option Byte) (i : Option Nat) : (s.takeFault k op i).sp = s.sp := rfl
@[simp] theorem takeFault_pc (s : State) (k : Fault) (op : Option Byte) (i : Option Nat) : (s.takeFault k op i).pc = s.pc := rfl
@[simp] theorem takeFault_cyc (s : State) (k : Fault) (op : Option Byte) (i : Option Nat) : (s.takeFault k op i).cyc = s.cyc := rfl
@[simp] theorem takeFault_run (s : State) (k : Fault) (op : Option Byte) (i : Option Nat) : (s.takeFault k op i).run = .faulted := rfl
@[simp] theorem takeFault_fr (s : State) (k : Fault) (op : Option Byte) (i : Option Nat) : (s.takeFault k op i).fr = some { kind := k, code := k.code, pc := s.pc, opcode := op, index := i } := rfl
@[simp] theorem takeFault_prog (s : State) (k : Fault) (op : Option Byte) (i : Option Nat) : (s.takeFault k op i).prog = s.prog := rfl
@[simp] theorem takeFault_params (s : State) (k : Fault) (op : Option Byte) (i : Option Nat) : (s.takeFault k op i).params = s.params := rfl
@[simp] theorem takeFault_mem (s : State) (k : Fault) (op : Option Byte) (i : Option Nat) : (s.takeFault k op i).mem = s.mem := rfl
@[simp] theorem takeFault_busLog (s : State) (k : Fault) (op : Option Byte) (i : Option Nat) : (s.takeFault k op i).busLog = s.busLog := rfl
@[simp] theorem takeFault_draws (s : State) (k : Fault) (op : Option Byte) (i : Option Nat) : (s.takeFault k op i).draws = s.draws := rfl

/-! ### Register reads through the updates -/

theorem readR8_writeFlags (s : State) (z n h c : Bool) (r : Reg8) :
    (s.writeFlags z n h c).readR8 r = if r = .f then packFlags z n h c else s.readR8 r := by
  cases r <;> rfl
@[simp] theorem readR8_memRead (s : State) (addr : Word) (r : Reg8) : (s.memRead addr).2.readR8 r = s.readR8 r := by cases r <;> rfl
@[simp] theorem readR8_memWrite (s : State) (addr : Word) (v : Byte) (r : Reg8) : (s.memWrite addr v).readR8 r = s.readR8 r := by cases r <;> rfl
@[simp] theorem readR8_jump (s : State) (t : Word) (r : Reg8) : (s.jump t).readR8 r = s.readR8 r := by cases r <;> rfl
@[simp] theorem readR8_tick (s : State) (n : Nat) (r : Reg8) : (s.tick n).readR8 r = s.readR8 r := by cases r <;> rfl
@[simp] theorem readR8_finish (s : State) (len n : Nat) (r : Reg8) : (s.finish len n).readR8 r = s.readR8 r := by cases r <;> rfl
@[simp] theorem readR8_stopCore (s : State) (r : Reg8) : (s.stopCore).readR8 r = s.readR8 r := by cases r <;> rfl
@[simp] theorem readR8_takeFault (s : State) (k : Fault) (op : Option Byte) (i : Option Nat) (r : Reg8) : (s.takeFault k op i).readR8 r = s.readR8 r := by cases r <;> rfl

/-! ### Flags -/

@[simp] theorem flagZ_writeFlags (s : State) (z n h c : Bool) : (s.writeFlags z n h c).flagZ = z := (packFlags_bits z n h c).1
@[simp] theorem flagN_writeFlags (s : State) (z n h c : Bool) : (s.writeFlags z n h c).flagN = n := (packFlags_bits z n h c).2.1
@[simp] theorem flagH_writeFlags (s : State) (z n h c : Bool) : (s.writeFlags z n h c).flagH = h := (packFlags_bits z n h c).2.2.1
@[simp] theorem flagC_writeFlags (s : State) (z n h c : Bool) : (s.writeFlags z n h c).flagC = c := (packFlags_bits z n h c).2.2.2
@[simp] theorem flagZ_finish (s : State) (len n : Nat) : (s.finish len n).flagZ = s.flagZ := rfl
@[simp] theorem flagN_finish (s : State) (len n : Nat) : (s.finish len n).flagN = s.flagN := rfl
@[simp] theorem flagH_finish (s : State) (len n : Nat) : (s.finish len n).flagH = s.flagH := rfl
@[simp] theorem flagC_finish (s : State) (len n : Nat) : (s.finish len n).flagC = s.flagC := rfl

end Sys2Proof.Machine
end

