-- ==== Sys2Proof/Laws/Ops.lean ====
section
/-! SUPPORT. What each shared operation does, said once: the state a shared meaning answers, as a chain of updates with
the ALU's results in closed form. -/

namespace Sys2Proof.Machine

/-- CYC keeps fitting its width when cycles are charged. -/
theorem cycAfter_fits (s : State) (n : Nat) :
    match s.params.cycleWidth with
    | .unbounded => s.cycAfter n = s.cyc + n
    | .bits width => s.cycAfter n < 2 ^ width := by
  unfold State.cycAfter
  cases s.params.cycleWidth with
  | unbounded => rfl
  | bits width => exact Nat.mod_lt _ (Nat.two_pow_pos width)

/-- `ld r,d8`: the one state it answers. -/
theorem loadR8_next {r : Reg8} {d8 : Byte} {s t : State} :
    loadR8 r d8 s = .next t ↔ t = (s.writeR8 r d8).finish 2 8 := by
  simp [loadR8, eq_comm]

/-- `ld rr,d16`: the one state it answers. -/
theorem loadPair_next {rr : Pair} {d16 : Word} {s t : State} :
    loadPair rr d16 s = .next t ↔ t = (s.writePair rr d16).finish 3 12 := by
  simp [loadPair, eq_comm]

/-- `inc rr`: the one state it answers. -/
theorem incPair_next {rr : Pair} {s t : State} :
    incPair rr s = .next t ↔ t = (s.writePair rr (s.readPair rr + 1)).finish 1 8 := by
  simp [incPair, eq_comm]

/-- `dec rr`: the one state it answers. -/
theorem decPair_next {rr : Pair} {s t : State} :
    decPair rr s = .next t ↔ t = (s.writePair rr (s.readPair rr - 1)).finish 1 8 := by
  simp [decPair, eq_comm]

/-- `inc r`: the one state it answers. -/
theorem incR8_next {r : Reg8} {s t : State} :
    incR8 r s = .next t ↔
      t = (s.writeCounted r (s.readR8 r + 1) false (decide ((s.readR8 r).toNat % 16 = 15))).finish 1 4 := by
  simp [incR8, inc8_half, eq_comm]

/-- `dec r`: the one state it answers. -/
theorem decR8_next {r : Reg8} {s t : State} :
    decR8 r s = .next t ↔
      t = (s.writeCounted r (s.readR8 r - 1) true (decide ((s.readR8 r).toNat % 16 = 0))).finish 1 4 := by
  simp [decR8, dec8_half, eq_comm]

/-- `add hl,rr`: the one state it answers. -/
theorem addHl_next {rr : Pair} {s t : State} :
    addHl rr s = .next t ↔
      t = ((s.writePair .hl (s.readPair .hl + s.readPair rr)).writeFlags false false
        (decide (4096 ≤ (s.readPair .hl).toNat % 4096 + (s.readPair rr).toNat % 4096))
        (decide (65536 ≤ (s.readPair .hl).toNat + (s.readPair rr).toNat))).finish 1 8 := by
  simp [addHl, add16_carries, eq_comm]

/-- `ld (rr),a`: the one state it answers. -/
theorem storeA_next {rr : Pair} {s t : State} :
    storeA rr s = .next t ↔ t = (s.memWrite (s.readPair rr) s.a).finish 1 8 := by
  simp [storeA, eq_comm]

/-- `ld a,(rr)`: the one state it answers. -/
theorem loadA_next {rr : Pair} {s t : State} :
    loadA rr s = .next t ↔
      t = ((s.memRead (s.readPair rr)).2.writeR8 .a (s.busReply (s.readPair rr))).finish 1 8 := by
  simp [loadA, eq_comm]

/-- A rotate: the one state it answers. -/
theorem rotateA_next {res : Byte × Bool} {s t : State} :
    rotateA res s = .next t ↔ t = ((s.writeR8 .a res.1).writeFlags false false false res.2).finish 1 4 := by
  simp [rotateA, eq_comm]

/-- A taken jump moves PC by the displacement and charges 12 cycles, and does nothing else. -/
theorem takeJump_eq (s : State) (r8 : Byte) :
    s.takeJump r8 = { s with pc := s.pc + jrDisplacement s.params.jrDispSigned r8, cyc := s.cycAfter 12 } := rfl

/-- The register and flag part of `inc r` and `dec r` writes that register and F alone. -/
theorem readR8_writeCounted (s : State) (r r' : Reg8) (res : Byte) (n half : Bool) (hf : r' ≠ .f) :
    (s.writeCounted r res n half).readR8 r' = if r' = r then res else s.readR8 r' := by
  simp [State.writeCounted, readR8_writeFlags, hf]

/-- Everything an instruction can do, by family: the state it answers as a chain of updates over a register or pair. -/
inductive ExecEffect (s : State) (i : Instr) : State → Prop
  | nop (hi : i.family = .noOp) : ExecEffect s i (s.finish 1 4)
  | stop (hi : i = .stop) : ExecEffect s i (s.finish 2 4).stopCore
  | loadR8 (r : Reg8) (d8 : Byte) (hi : i.family = .loadR8) (hr : r ≠ .f) : ExecEffect s i ((s.writeR8 r d8).finish 2 8)
  | loadPair (rr : Pair) (d16 : Word) (hi : i.family = .loadPair) (hr : rr ≠ .af) :
      ExecEffect s i ((s.writePair rr d16).finish 3 12)
  | incPair (rr : Pair) (hi : i.family = .incPair) (hr : rr ≠ .af) :
      ExecEffect s i ((s.writePair rr (inc16 (s.readPair rr))).finish 1 8)
  | decPair (rr : Pair) (hi : i.family = .decPair) (hr : rr ≠ .af) :
      ExecEffect s i ((s.writePair rr (dec16 (s.readPair rr))).finish 1 8)
  | incR8 (r : Reg8) (hi : i.family = .incR8) (hr : r ≠ .f) :
      ExecEffect s i ((s.writeCounted r (inc8 (s.readR8 r)).1 false (inc8 (s.readR8 r)).2).finish 1 4)
  | decR8 (r : Reg8) (hi : i.family = .decR8) (hr : r ≠ .f) :
      ExecEffect s i ((s.writeCounted r (dec8 (s.readR8 r)).1 true (dec8 (s.readR8 r)).2).finish 1 4)
  | addHl (rr : Pair) (hi : i.family = .addHl) :
      ExecEffect s i (((s.writePair .hl (add16 (s.readPair .hl) (s.readPair rr)).1).writeFlags false false
        (add16 (s.readPair .hl) (s.readPair rr)).2.1 (add16 (s.readPair .hl) (s.readPair rr)).2.2).finish 1 8)
  | storeA (rr : Pair) (hi : i.family = .storeA) : ExecEffect s i ((s.memWrite (s.readPair rr) s.a).finish 1 8)
  | storeAInc (hi : i = .ldIndHlIncA) :
      ExecEffect s i (((s.memWrite (s.readPair .hl) s.a).writePair .hl (inc16 (s.readPair .hl))).finish 1 8)
  | loadA (rr : Pair) (hi : i.family = .loadA) :
      ExecEffect s i (((s.memRead (s.readPair rr)).2.writeR8 .a (s.memRead (s.readPair rr)).1).finish 1 8)
  | loadAInc (hi : i = .ldAIndHlInc) :
      ExecEffect s i ((((s.memRead (s.readPair .hl)).2.writeR8 .a (s.memRead (s.readPair .hl)).1).writePair .hl
        (inc16 (s.readPair .hl))).finish 1 8)
  | storeSp (a16 : Word) (hi : i = .ldIndA16Sp a16) :
      ExecEffect s i (((s.memWrite a16 (hiByte s.sp)).memWrite (a16 + 1) (loByte s.sp)).finish 3 20)
  | jump (r8 : Byte) (hi : i.family = .jump) : ExecEffect s i (s.takeJump r8)
  | noJump (hi : i.family = .jump) : ExecEffect s i (s.finish 2 8)
  | rotate (res : Byte × Bool) (hi : i.family = .rotate) :
      ExecEffect s i (((s.writeR8 .a res.1).writeFlags false false false res.2).finish 1 4)

/-- The inversion of exec: a next state is the effect of the instruction's family. -/
theorem exec_effect {i : Instr} {s t : State} (h : exec i s = .next t) : ExecEffect s i t := by
  cases i
  case jrNzR8 r8 =>
    obtain rfl := Host.Outcome.next.inj h
    split
    · exact .noJump rfl
    · exact .jump r8 rfl
  all_goals obtain rfl := Host.Outcome.next.inj h
  case nop => exact .nop rfl
  case stop => exact .stop rfl
  case ldBcD16 d16 => exact .loadPair .bc d16 rfl (by decide)
  case ldIndBcA => exact .storeA .bc rfl
  case incBc => exact .incPair .bc rfl (by decide)
  case incB => exact .incR8 .b rfl (by decide)
  case decB => exact .decR8 .b rfl (by decide)
  case ldBD8 d8 => exact .loadR8 .b d8 rfl (by decide)
  case rlca => exact .rotate _ rfl
  case ldIndA16Sp a16 => exact .storeSp a16 rfl
  case addHlBc => exact .addHl .bc rfl
  case ldAIndBc => exact .loadA .bc rfl
  case decBc => exact .decPair .bc rfl (by decide)
  case incC => exact .incR8 .c rfl (by decide)
  case decC => exact .decR8 .c rfl (by decide)
  case ldCD8 d8 => exact .loadR8 .c d8 rfl (by decide)
  case rrca => exact .rotate _ rfl
  case ldDeD16 d16 => exact .loadPair .de d16 rfl (by decide)
  case ldIndDeA => exact .storeA .de rfl
  case incDe => exact .incPair .de rfl (by decide)
  case incD => exact .incR8 .d rfl (by decide)
  case decD => exact .decR8 .d rfl (by decide)
  case ldDD8 d8 => exact .loadR8 .d d8 rfl (by decide)
  case rla => exact .rotate _ rfl
  case jrR8 r8 => exact .jump r8 rfl
  case addHlDe => exact .addHl .de rfl
  case ldAIndDe => exact .loadA .de rfl
  case decDe => exact .decPair .de rfl (by decide)
  case incE => exact .incR8 .e rfl (by decide)
  case decE => exact .decR8 .e rfl (by decide)
  case ldED8 d8 => exact .loadR8 .e d8 rfl (by decide)
  case rra => exact .rotate _ rfl
  case ldHlD16 d16 => exact .loadPair .hl d16 rfl (by decide)
  case ldIndHlIncA => exact .storeAInc rfl
  case incHl => exact .incPair .hl rfl (by decide)
  case incH => exact .incR8 .h rfl (by decide)
  case decH => exact .decR8 .h rfl (by decide)
  case ldHD8 d8 => exact .loadR8 .h d8 rfl (by decide)
  case addHlHl => exact .addHl .hl rfl
  case ldAIndHlInc => exact .loadAInc rfl
  case decHl => exact .decPair .hl rfl (by decide)
  case incL => exact .incR8 .l rfl (by decide)
  case decL => exact .decR8 .l rfl (by decide)
  case ldLD8 d8 => exact .loadR8 .l d8 rfl (by decide)

/-- Every instruction answers a next state (40_execution_cycle.md R124). -/
theorem exec_answers_next (i : Instr) (s : State) : ∃ t, exec i s = .next t := by
  cases i <;> exact ⟨_, rfl⟩

@[simp] theorem writeCounted_fields (s : State) (r : Reg8) (res : Byte) (n hf : Bool) :
    (s.writeCounted r res n hf).sp = s.sp ∧ (s.writeCounted r res n hf).pc = s.pc ∧ (s.writeCounted r res n hf).cyc = s.cyc ∧
    (s.writeCounted r res n hf).run = s.run ∧ (s.writeCounted r res n hf).fr = s.fr ∧
    (s.writeCounted r res n hf).prog = s.prog ∧ (s.writeCounted r res n hf).params = s.params ∧
    (s.writeCounted r res n hf).mem = s.mem ∧ (s.writeCounted r res n hf).busLog = s.busLog ∧
    (s.writeCounted r res n hf).draws = s.draws := by
  simp [State.writeCounted]

/-- The flags after the register and flag part of `inc r` and `dec r`: N as given, H the half-carry, C kept (R199). -/
theorem flags_writeCounted (s : State) (r : Reg8) (res : Byte) (n half : Bool) :
    (s.writeCounted r res n half).flagZ = (s.writeR8 r res).z8 r res ∧ (s.writeCounted r res n half).flagN = n ∧
    (s.writeCounted r res n half).flagH = half ∧ (s.writeCounted r res n half).flagC = s.flagC := by
  simp [State.writeCounted]

/-- No instruction changes SP, FR, the program or the parameters. -/
theorem exec_keeps {i : Instr} {s t : State} (h : exec i s = .next t) :
    t.sp = s.sp ∧ t.fr = s.fr ∧ t.prog = s.prog ∧ t.params = s.params := by
  cases exec_effect h <;> simp [takeJump_eq]

/-- RUN changes by `stop` alone. -/
theorem exec_run {i : Instr} {s t : State} (h : exec i s = .next t) : t.run = if i = .stop then .stopped else s.run := by
  cases exec_effect h <;> first
    | (rename_i hi; subst hi; simp)
    | (have : i ≠ .stop := by rintro rfl; simp_all [Instr.family]
       simp [takeJump_eq, this])

/-- What an instruction does to the bytes behind the bus: nothing, one write, or the two writes of the SP store. -/
theorem exec_mem {i : Instr} {s t : State} (h : exec i s = .next t) :
    t.mem = s.mem ∨ (∃ (addr : Word) (v : Byte), t.mem = Memory.write s.mem addr.toNat v) ∨
      ∃ (addr addr' : Word) (v v' : Byte), t.mem = Memory.write (Memory.write s.mem addr.toNat v) addr'.toNat v' := by
  cases exec_effect h
  case storeA rr _ => exact .inr (.inl ⟨_, _, rfl⟩)
  case storeAInc => exact .inr (.inl ⟨_, _, by simp; rfl⟩)
  case storeSp => exact .inr (.inr ⟨_, _, _, _, rfl⟩)
  all_goals exact .inl (by simp [takeJump_eq])

/-- F after an instruction: as before, or a packed flag byte. -/
theorem exec_f {i : Instr} {s t : State} (h : exec i s = .next t) :
    t.f = s.f ∨ ∃ z n hf c, t.f = packFlags z n hf c := by
  cases exec_effect h
  case incR8 => exact .inr ⟨_, _, _, _, rfl⟩
  case decR8 => exact .inr ⟨_, _, _, _, rfl⟩
  case addHl => exact .inr ⟨_, _, _, _, rfl⟩
  case rotate => exact .inr ⟨_, _, _, _, rfl⟩
  case loadR8 r d8 _ hr => exact .inl (by simp [hr])
  case loadPair rr _ _ hr => exact .inl (by cases rr <;> first | rfl | exact absurd rfl hr)
  case incPair rr _ hr => exact .inl (by cases rr <;> first | rfl | exact absurd rfl hr)
  case decPair rr _ hr => exact .inl (by cases rr <;> first | rfl | exact absurd rfl hr)
  all_goals exact .inl rfl

/-- CYC after an instruction: some number of cycles, at most 20, charged by tick. -/
theorem exec_cyc {i : Instr} {s t : State} (h : exec i s = .next t) : ∃ n ≤ 20, t.cyc = s.cycAfter n := by
  have key : ∀ u : State, u.params = s.params → u.cyc = s.cyc → ∀ len n, (u.finish len n).cyc = s.cycAfter n := by
    intro u hp hc len n
    simp [State.cycAfter, hp, hc]
  cases exec_effect h
  case jump => exact ⟨12, by omega, rfl⟩
  case noJump => exact ⟨8, by omega, rfl⟩
  case loadPair => exact ⟨12, by omega, key _ (by simp) (by simp) _ _⟩
  case storeSp => exact ⟨20, by omega, key _ (by simp) (by simp) _ _⟩
  case nop => exact ⟨4, by omega, rfl⟩
  case stop => exact ⟨4, by omega, rfl⟩
  case rotate => exact ⟨4, by omega, key _ (by simp) (by simp) _ _⟩
  case incR8 => exact ⟨4, by omega, key _ (by simp) (by simp) _ _⟩
  case decR8 => exact ⟨4, by omega, key _ (by simp) (by simp) _ _⟩
  all_goals exact ⟨8, by omega, key _ (by simp) (by simp) _ _⟩

/-- The state of the fixed name is the reset at the defaults with nothing loaded. -/
theorem reset_eq_afterReset : State.reset = State.afterReset [] 0 Params.default := rfl

/-- The reset of a program of at least one byte, and no other, gives a state. -/
theorem resetWith_some {prog : List Byte} {initPc : Word} {params : Params} {s : State} :
    State.resetWith prog initPc params = some s ↔
      prog ≠ [] ∧ s = State.afterReset prog initPc params := by
  unfold State.resetWith wfProgram
  cases prog <;> simp [eq_comm]

end Sys2Proof.Machine
end

