-- ==== Sys2Proof/Laws/PerInstr.lean ====
section
/-! SUPPORT. The per-instruction family EncodingShape: an instruction's encoding has the length of its format and is one
whole well-formed instruction. -/

namespace Sys2Proof.Laws.EncodingShape

/-- The encoding of an instruction has its length (30_encoding.md R90, R91) and an admitted opcode. -/
def Statement (i : Instr) : Prop := (encode i).length = i.length ∧ wfEncoding (encode i) = true

theorem nop : Statement (.nop) := ⟨rfl, rfl⟩
theorem ldBcD16 (v : Word) : Statement (.ldBcD16 v) := ⟨rfl, rfl⟩
theorem ldIndBcA : Statement (.ldIndBcA) := ⟨rfl, rfl⟩
theorem incBc : Statement (.incBc) := ⟨rfl, rfl⟩
theorem incB : Statement (.incB) := ⟨rfl, rfl⟩
theorem decB : Statement (.decB) := ⟨rfl, rfl⟩
theorem ldBD8 (v : Byte) : Statement (.ldBD8 v) := ⟨rfl, rfl⟩
theorem rlca : Statement (.rlca) := ⟨rfl, rfl⟩
theorem ldIndA16Sp (v : Word) : Statement (.ldIndA16Sp v) := ⟨rfl, rfl⟩
theorem addHlBc : Statement (.addHlBc) := ⟨rfl, rfl⟩
theorem ldAIndBc : Statement (.ldAIndBc) := ⟨rfl, rfl⟩
theorem decBc : Statement (.decBc) := ⟨rfl, rfl⟩
theorem incC : Statement (.incC) := ⟨rfl, rfl⟩
theorem decC : Statement (.decC) := ⟨rfl, rfl⟩
theorem ldCD8 (v : Byte) : Statement (.ldCD8 v) := ⟨rfl, rfl⟩
theorem rrca : Statement (.rrca) := ⟨rfl, rfl⟩
theorem stop : Statement (.stop) := ⟨rfl, rfl⟩
theorem ldDeD16 (v : Word) : Statement (.ldDeD16 v) := ⟨rfl, rfl⟩
theorem ldIndDeA : Statement (.ldIndDeA) := ⟨rfl, rfl⟩
theorem incDe : Statement (.incDe) := ⟨rfl, rfl⟩
theorem incD : Statement (.incD) := ⟨rfl, rfl⟩
theorem decD : Statement (.decD) := ⟨rfl, rfl⟩
theorem ldDD8 (v : Byte) : Statement (.ldDD8 v) := ⟨rfl, rfl⟩
theorem rla : Statement (.rla) := ⟨rfl, rfl⟩
theorem jrR8 (v : Byte) : Statement (.jrR8 v) := ⟨rfl, rfl⟩
theorem addHlDe : Statement (.addHlDe) := ⟨rfl, rfl⟩
theorem ldAIndDe : Statement (.ldAIndDe) := ⟨rfl, rfl⟩
theorem decDe : Statement (.decDe) := ⟨rfl, rfl⟩
theorem incE : Statement (.incE) := ⟨rfl, rfl⟩
theorem decE : Statement (.decE) := ⟨rfl, rfl⟩
theorem ldED8 (v : Byte) : Statement (.ldED8 v) := ⟨rfl, rfl⟩
theorem rra : Statement (.rra) := ⟨rfl, rfl⟩
theorem jrNzR8 (v : Byte) : Statement (.jrNzR8 v) := ⟨rfl, rfl⟩
theorem ldHlD16 (v : Word) : Statement (.ldHlD16 v) := ⟨rfl, rfl⟩
theorem ldIndHlIncA : Statement (.ldIndHlIncA) := ⟨rfl, rfl⟩
theorem incHl : Statement (.incHl) := ⟨rfl, rfl⟩
theorem incH : Statement (.incH) := ⟨rfl, rfl⟩
theorem decH : Statement (.decH) := ⟨rfl, rfl⟩
theorem ldHD8 (v : Byte) : Statement (.ldHD8 v) := ⟨rfl, rfl⟩
theorem addHlHl : Statement (.addHlHl) := ⟨rfl, rfl⟩
theorem ldAIndHlInc : Statement (.ldAIndHlInc) := ⟨rfl, rfl⟩
theorem decHl : Statement (.decHl) := ⟨rfl, rfl⟩
theorem incL : Statement (.incL) := ⟨rfl, rfl⟩
theorem decL : Statement (.decL) := ⟨rfl, rfl⟩
theorem ldLD8 (v : Byte) : Statement (.ldLD8 v) := ⟨rfl, rfl⟩

end Sys2Proof.Laws.EncodingShape
end

