-- ==== Sys2Proof/Laws/Step.lean ====
section
/-! SUPPORT. What a step can do, said once, and the fetch of placed bytes. -/

namespace Sys2Proof.Machine

/-- A byte fetched lies in ProgramMemory below FETCH_LIMIT (R61). -/
theorem fetch_some {s : State} {i : Nat} {v : Byte} (h : s.fetch i = some v) :
    i < s.fetchLimit ∧ s.prog[i]? = some v := by
  unfold State.fetch at h
  split at h
  · exact ⟨‹_›, h⟩
  · cases h

/-- A fetch fails exactly at FETCH_LIMIT and above (R61). -/
theorem fetch_none_iff {s : State} {i : Nat} : s.fetch i = none ↔ s.fetchLimit ≤ i := by
  unfold State.fetch State.fetchLimit
  split
  · rename_i h
    have : i < s.prog.length := lt_of_lt_of_le h (min_le_left _ _)
    simp [this]
    omega
  · simp only [true_iff]
    omega

/-- Below FETCH_LIMIT a fetch gives the byte of the program. -/
theorem fetch_below {s : State} {i : Nat} (h : i < s.fetchLimit) : s.fetch i = s.prog[i]? := if_pos h

/-- A core that fetched a byte has a program. -/
theorem wfProgram_of_fetch {s : State} {i : Nat} {v : Byte} (h : s.fetch i = some v) : wfProgram s.prog = true := by
  have := (fetch_some h).2
  unfold wfProgram
  cases hp : s.prog <;> simp_all

/-- Every next state a step can give: the same state where RUN is not RUNNING; else the meaning of the instruction
decoded at PC, or one of the two faults. -/
theorem step_cases {s t : State} (h : step s = .next t) :
    (s.run ≠ .running ∧ t = s) ∨
    (s.run = .running ∧ wfProgram s.prog = true ∧
      ((∃ i, s.decodeNext = .instr i ∧ exec i s = .next t) ∨
       (∃ op, s.decodeNext = .unimplemented op ∧ t = s.raiseUnimplemented op) ∨
       (∃ offset op, s.decodeNext = .outOfBounds offset op ∧ t = s.raiseOutOfBounds offset op))) := by
  unfold step at h
  split at h
  · rename_i hr
    simp_all
  · rename_i hr
    simp_all
  · rename_i hr
    split at h
    · rename_i hp
      refine .inr ⟨hr, hp, ?_⟩
      unfold stepRunning at h
      split at h
      · rename_i i hi
        exact .inl ⟨i, hi, h⟩
      · rename_i op hop
        exact .inr (.inl ⟨op, hop, by cases h; rfl⟩)
      · rename_i offset op hop
        exact .inr (.inr ⟨offset, op, hop, by cases h; rfl⟩)
    · cases h

/-- A RUNNING core whose bytes at PC are those fetched of an instruction decodes it. -/
theorem decodeNext_of_bytes {s : State} (i : Instr)
    (h : ∀ k < i.fetchedBytes.length, s.fetch (s.pc.toNat + k) = i.fetchedBytes[k]?) : s.decodeNext = .instr i :=
  decodeAt_fetchedBytes i h

/-- The step of a RUNNING core with a program. -/
theorem step_running {s : State} (hr : s.run = .running) (hp : wfProgram s.prog = true) : step s = stepRunning s := by
  simp [step, hr, hp]

/-- A core that is not RUNNING stays as it is. -/
theorem step_terminal {s : State} (hr : s.run ≠ .running) : step s = .next s := by
  unfold step
  cases h : s.run <;> simp_all

/-- On any machine, a run whose first step has a next state goes on from it. -/
theorem hostRun_next (M : Host.Core) {s t : M.State} (h : M.step s = .next t) (k : Nat) :
    M.run (k + 1) s = M.run k t := by
  rw [Host.Core.run.eq_2, h]

/-- On any machine, the first step of a run that gives a next state, and the run after it. -/
theorem hostRun_succ (M : Host.Core) {s t : M.State} {k : Nat} (h : M.run (k + 1) s = .next t) :
    ∃ u, M.step s = .next u ∧ M.run k u = .next t := by
  rw [Host.Core.run.eq_2] at h
  cases hs : M.step s with
  | next u =>
    rw [hs] at h
    exact ⟨u, rfl, h⟩
  | fault r => rw [hs] at h; cases h
  | refused r => rw [hs] at h; cases h

/-- A run of the core whose first step has a next state goes on from it. -/
theorem core_run_next {s t : State} (h : step s = .next t) (k : Nat) :
    Sys2Proof.core.run (k + 1) s = Sys2Proof.core.run k t :=
  hostRun_next Sys2Proof.core h k

/-- The first step of a run of the core that gives a next state, and the run after it. -/
theorem core_run_succ {s t : State} {k : Nat} (h : Sys2Proof.core.run (k + 1) s = .next t) :
    ∃ u : State, step s = .next u ∧ Sys2Proof.core.run k u = .next t :=
  hostRun_succ Sys2Proof.core h

/-- What every step keeps, every run keeps. -/
theorem run_keeps {P : State → Prop} (hstep : ∀ s t, P s → step s = .next t → P t) :
    ∀ (k : Nat) {s t : State}, P s → Sys2Proof.core.run k s = .next t → P t
  | 0, s, t, hs, h => by
    have : s = t := Host.Outcome.next.inj h
    exact this ▸ hs
  | k + 1, s, t, hs, h => by
    obtain ⟨u, hu, hr⟩ := core_run_succ h
    exact run_keeps hstep k (hstep s u hs hu) hr

/-- Bytes placed into a program at an index stand there: index `i + k` holds the k-th of them. -/
theorem getElem_placeBytes (prog bytes : List Byte) (i k : Nat) (hk : k < bytes.length) :
    (placeBytes prog i bytes)[i + k]? = bytes[k]? := by
  unfold placeBytes
  have hlen : (prog.take i ++ List.replicate (i - prog.length) (0 : Byte)).length = i := by
    simp
    omega
  rw [List.append_assoc, List.getElem?_append_right (by omega), hlen, Nat.add_sub_cancel_left,
    List.getElem?_append_left hk]

end Sys2Proof.Machine
end

