-- ==== Sys2Proof/Tests/Slice0.lean ====
section
/-! SUPPORT. The model's own tests. Expected values come from spec/95_test_vectors.md (S<n>, V<n>, P<n>) or, where a
rule is named instead, by hand from that rule. Data-bus reads are answered by the flat bus of D19 there, so here too. -/

open Sys2Proof Sys2Proof.Machine

namespace Sys2Proof.Tests

/-! ### Helpers -/

/-- The reset state on the flat bus, with the bytes as program. -/
def start (prog : List Byte) : State := State.afterReset prog 0 { Params.default with bus := .flat }

/-- The same with nothing loaded, for `exec`. -/
def zero : State := start []

/-- The next state, if there is one. -/
def next? : Result → Option State
  | .next s => some s
  | .fault _ => none
  | .refused _ => none

/-- AF, BC, DE, HL, SP, PC, then CYC and RUN. -/
def view (s : State) : List Word × Nat × RunState :=
  ([s.readPair .af, s.readPair .bc, s.readPair .de, s.readPair .hl, s.sp, s.pc], s.cyc, s.run)

/-- The view after one instruction's meaning. -/
def after (i : Instr) (s : State) : Option (List Word × Nat × RunState) := (next? (exec i s)).map view

/-- The view after one step at PC 0 over these bytes. -/
def runs (bytes : List Byte) (s : State) : Option (List Word × Nat × RunState) :=
  (next? (step { s with prog := bytes })).map view

/-- The fault record after one step. -/
def record (s : State) : Option (RunState × Option FaultRecord × Nat) :=
  (next? (step s)).map fun t => (t.run, t.fr, t.cyc)

/-- The bus transactions after one instruction's meaning, newest first, and the bytes behind the bus. -/
def bus (i : Instr) (s : State) : Option (List BusEvent × Memory) :=
  (next? (exec i s)).map fun t => (t.busLog, t.mem)

/-! ### Well-formedness: each check refuses an ill-formed term -/

/-- Each of the four gaps of 30_encoding.md R98, at its ends. -/
theorem test_wf_unadmitted_opcodes :
    [0x27, 0x28, 0x2F, 0x30, 0x3E, 0xCB, 0xFF].map admittedOpcode = List.replicate 7 false := by decide

theorem test_wf_admitted_opcodes :
    [0x00, 0x10, 0x26, 0x29, 0x2E].map admittedOpcode = List.replicate 5 true := by decide

/-- No byte, an opcode without an entry, a missing operand byte, a byte too many. -/
theorem test_wf_ill_formed_encodings :
    [[], [0x27], [0x06], [0x01, 0x12], [0x10], [0x00, 0x00], [0x20, 0x01, 0x02]].map wfEncoding =
      List.replicate 7 false := by decide

theorem test_wf_good_encodings :
    [[0x00], [0x06, 0x00], [0x10, 0xFF], [0x08, 0x00, 0x01]].map wfEncoding = List.replicate 4 true := by decide

/-- 60_exceptions.md R305: the empty program is refused. -/
theorem test_wf_empty_program : wfProgram [] = false ∧ wfProgram [0x00] = true := by decide

/-- Out of order, listed twice, beyond the address space, a byte equal to the unlisted one. -/
theorem test_wf_ill_formed_memories :
    [[(2, 1), (1, 1)], [(1, 1), (1, 2)], [(0x10000, 1)], [(5, 0)]].map Memory.wf = List.replicate 4 false := by decide

/-- A write keeps the order, replaces, and unlists. -/
theorem test_memory_writes_stay_canonical :
    Memory.write [(3, 1), (9, 2)] 5 7 = [(3, 1), (5, 7), (9, 2)] ∧ Memory.write [(3, 1)] 3 8 = [(3, 8)] ∧
    Memory.write [(3, 1), (9, 2)] 3 0 = [(9, 2)] ∧ Memory.write [] 0xFFFF 0 = [] := by decide

/-! ### Decoding: bytes written out from the opcode column of 30_encoding.md R97, one per constructor -/

theorem test_decode_row0 :
    [
      [0x00], [0x01, 0x12, 0x34], [0x02], [0x03], [0x04], [0x05], [0x06, 0xA1], [0x07], [0x08, 0xC0, 0x20],
      [0x09], [0x0A], [0x0B], [0x0C], [0x0D], [0x0E, 0xA2], [0x0F]
    ].map decode = [
      .instr .nop, .instr (.ldBcD16 0x1234), .instr .ldIndBcA, .instr .incBc, .instr .incB, .instr .decB,
      .instr (.ldBD8 0xA1), .instr .rlca, .instr (.ldIndA16Sp 0xC020), .instr .addHlBc, .instr .ldAIndBc,
      .instr .decBc, .instr .incC, .instr .decC, .instr (.ldCD8 0xA2), .instr .rrca
    ] := by decide

theorem test_decode_row1 :
    [
      [0x10], [0x11, 0xF0, 0x01], [0x12], [0x13], [0x14], [0x15], [0x16, 0xA3], [0x17], [0x18, 0xFE], [0x19],
      [0x1A], [0x1B], [0x1C], [0x1D], [0x1E, 0xA4], [0x1F]
    ].map decode = [
      .instr .stop, .instr (.ldDeD16 0xF001), .instr .ldIndDeA, .instr .incDe, .instr .incD, .instr .decD,
      .instr (.ldDD8 0xA3), .instr .rla, .instr (.jrR8 0xFE), .instr .addHlDe, .instr .ldAIndDe,
      .instr .decDe, .instr .incE, .instr .decE, .instr (.ldED8 0xA4), .instr .rra
    ] := by decide

theorem test_decode_row2 :
    [
      [0x20, 0x05], [0x21, 0x0F, 0xFF], [0x22], [0x23], [0x24], [0x25], [0x26, 0xC0], [0x29], [0x2A], [0x2B],
      [0x2C], [0x2D], [0x2E, 0xA5]
    ].map decode = [
      .instr (.jrNzR8 0x05), .instr (.ldHlD16 0x0FFF), .instr .ldIndHlIncA, .instr .incHl, .instr .incH,
      .instr .decH, .instr (.ldHD8 0xC0), .instr .addHlHl, .instr .ldAIndHlInc, .instr .decHl, .instr .incL,
      .instr .decL, .instr (.ldLD8 0xA5)
    ] := by decide

/-- 30_encoding.md R98, R100; 40_execution_cycle.md R121, R123: refusals by name, and no operand byte of an opcode
without an entry is looked at. -/
theorem test_decode_refusals :
    decode [0xCB, 0x00] = .unimplemented 0xCB ∧ decode [0x28] = .unimplemented 0x28 ∧
    decode [] = .outOfBounds 0 none ∧ decode [0x06] = .outOfBounds 1 (some 0x06) ∧
    decode [0x21, 0xAB] = .outOfBounds 2 (some 0x21) := by decide

/-- Bit 0 of a table word is the least significant bit of the first byte; bits from `nbits` on are 0. -/
theorem test_decode_table_words :
    decodeTableWord 24 0x341201 = some (.ldBcD16 0x1234) ∧ decodeTableWord 16 0x7F06 = some (.ldBD8 0x7F) ∧
    decodeTableWord 8 0x06 = some (.ldBD8 0x00) ∧ decodeTableWord 8 0xFF10 = some .stop ∧
    decodeTableWord 8 0x27 = none := by decide

/-- The host's way to run one word as the first instruction after reset. -/
theorem test_step_runs_the_placed_word :
    (next? (step (State.reset.withFetchWord 24 0x341201))).map view =
      some ([0, 0x1234, 0, 0, 0, 0x0003], 12, .running) := by decide

/-- The encoding of `stop` is two bytes long, one of them fetched. -/
theorem test_encode_stop : encode .stop = [0x10, 0x00] ∧ Instr.fetchedBytes .stop = [0x10] := by decide

/-! ### Reset (10_state.md R46) -/

theorem test_reset : view State.reset = ([0, 0, 0, 0, 0, 0], 0, .running) ∧ State.reset.fr = none := by decide

theorem test_resetWith :
    (State.resetWith [0x00] 0x0005 Params.default).map view = some ([0, 0, 0, 0, 0, 0x0005], 0, .running) ∧
    State.resetWith [] 0 Params.default = none := by decide

theorem test_reset_inv : State.reset.Inv :=
  ⟨by decide, True.intro, by decide, by decide⟩

/-! ### Instructions -/

/-- S11. -/
theorem test_nop :
    runs [0x00] zero =
      some ([0, 0, 0, 0, 0, 0x0001], 4, .running) := by decide

/-- V1. -/
theorem test_nop_wraps_pc :
    after .nop { zero with pc := 0xFFFF } =
      some ([0, 0, 0, 0, 0, 0], 4, .running) := by decide

/-- S9; the second byte is not fetched. -/
theorem test_stop :
    runs [0x10] zero =
      some ([0, 0, 0, 0, 0, 0x0002], 4, .stopped) := by decide

/-- V2. -/
theorem test_stop_wraps_pc :
    after .stop { zero with pc := 0xFFFF } =
      some ([0, 0, 0, 0, 0, 0x0001], 4, .stopped) := by decide

/-- P1. -/
theorem test_ld_b :
    runs [0x06, 0x03] zero =
      some ([0, 0x0300, 0, 0, 0, 0x0002], 8, .running) := by decide

/-- P4; the other half stays. -/
theorem test_ld_c :
    runs [0x0E, 0x03] { zero with b := 0x12 } =
      some ([0, 0x1203, 0, 0, 0, 0x0002], 8, .running) := by decide

/-- R172. -/
theorem test_ld_d :
    runs [0x16, 0xA5] { zero with d := 0x12, e := 0x34, f := 0xF0 } =
      some ([0x00F0, 0, 0xA534, 0, 0, 0x0002], 8, .running) := by decide

/-- R173. -/
theorem test_ld_e :
    runs [0x1E, 0xA5] { zero with d := 0x12, e := 0x34, f := 0xF0 } =
      some ([0x00F0, 0, 0x12A5, 0, 0, 0x0002], 8, .running) := by decide

/-- V4. -/
theorem test_ld_h :
    runs [0x26, 0xC0] { zero with h := 0x12, l := 0x34 } =
      some ([0, 0, 0, 0xC034, 0, 0x0002], 8, .running) := by decide

/-- V5. -/
theorem test_ld_l :
    runs [0x2E, 0x00] { zero with h := 0x12, l := 0xFF, f := 0xB0 } =
      some ([0x00B0, 0, 0, 0x1200, 0, 0x0002], 8, .running) := by decide

/-- S8. -/
theorem test_ld_bc :
    runs [0x01, 0x12, 0x34] zero =
      some ([0, 0x1234, 0, 0, 0, 0x0003], 12, .running) := by decide

/-- V6. -/
theorem test_ld_de :
    runs [0x11, 0xF0, 0x00] zero =
      some ([0, 0, 0xF000, 0, 0, 0x0003], 12, .running) := by decide

/-- P2. -/
theorem test_ld_hl :
    runs [0x21, 0x0F, 0xFF] zero =
      some ([0, 0, 0, 0x0FFF, 0, 0x0003], 12, .running) := by decide

/-- V10. -/
theorem test_inc_bc :
    runs [0x03] { zero with c := 0xFF, f := 0xF0 } =
      some ([0x00F0, 0x0100, 0, 0, 0, 0x0001], 8, .running) := by decide

/-- V11. -/
theorem test_inc_de :
    runs [0x13] { zero with d := 0xFF, e := 0xFF } =
      some ([0, 0, 0, 0, 0, 0x0001], 8, .running) := by decide

/-- R202. -/
theorem test_inc_hl :
    runs [0x23] { zero with h := 0x12, l := 0xFF } =
      some ([0, 0, 0, 0x1300, 0, 0x0001], 8, .running) := by decide

/-- V13. -/
theorem test_dec_bc :
    runs [0x0B] { zero with b := 0x01 } =
      some ([0, 0x00FF, 0, 0, 0, 0x0001], 8, .running) := by decide

/-- S2, one turn. -/
theorem test_dec_de :
    runs [0x1B] { zero with d := 0x12, e := 0x34 } =
      some ([0, 0, 0x1233, 0, 0, 0x0001], 8, .running) := by decide

/-- V12. -/
theorem test_dec_hl :
    runs [0x2B] { zero with f := 0xF0 } =
      some ([0x00F0, 0, 0, 0xFFFF, 0, 0x0001], 8, .running) := by decide

/-- V14. -/
theorem test_inc_b :
    runs [0x04] { zero with b := 0x0F, f := 0x10 } =
      some ([0x0030, 0x1000, 0, 0, 0, 0x0001], 4, .running) := by decide

/-- V16. -/
theorem test_inc_c :
    runs [0x0C] { zero with b := 0x01, c := 0xFF } =
      some ([0x00A0, 0x0100, 0, 0, 0, 0x0001], 4, .running) := by decide

/-- V17. -/
theorem test_inc_c_pair :
    runs [0x0C] { zero with b := 0x01, c := 0xFF, params := { Params.default with inc8ZSource := .pair } } =
      some ([0x0020, 0x0100, 0, 0, 0, 0x0001], 4, .running) := by decide

/-- R212. -/
theorem test_inc_d :
    runs [0x14] { zero with d := 0xFF, e := 0x01, f := 0x10 } =
      some ([0x00B0, 0, 0x0001, 0, 0, 0x0001], 4, .running) := by decide

/-- R213. -/
theorem test_inc_e :
    runs [0x1C] { zero with e := 0x0F } =
      some ([0x0020, 0, 0x0010, 0, 0, 0x0001], 4, .running) := by decide

/-- R214. -/
theorem test_inc_h :
    runs [0x24] { zero with h := 0xFF, l := 0x01 } =
      some ([0x00A0, 0, 0, 0x0001, 0, 0x0001], 4, .running) := by decide

/-- V22. -/
theorem test_inc_l :
    runs [0x2C] { zero with l := 0x7F } =
      some ([0x0020, 0, 0, 0x0080, 0, 0x0001], 4, .running) := by decide

/-- P1, with C set before. -/
theorem test_dec_b :
    runs [0x05] { zero with b := 0x01, f := 0x10 } =
      some ([0x00D0, 0, 0, 0, 0, 0x0001], 4, .running) := by decide

/-- R221. -/
theorem test_dec_c :
    runs [0x0D] { zero with b := 0x02, c := 0x10 } =
      some ([0x0060, 0x020F, 0, 0, 0, 0x0001], 4, .running) := by decide

/-- V18. -/
theorem test_dec_d :
    runs [0x15] { zero with f := 0x10 } =
      some ([0x0070, 0, 0xFF00, 0, 0, 0x0001], 4, .running) := by decide

/-- V19. -/
theorem test_dec_e :
    runs [0x1D] { zero with e := 0x01 } =
      some ([0x00C0, 0, 0, 0, 0, 0x0001], 4, .running) := by decide

/-- V20. -/
theorem test_dec_h :
    runs [0x25] { zero with h := 0x10 } =
      some ([0x0060, 0, 0, 0x0F00, 0, 0x0001], 4, .running) := by decide

/-- V21. -/
theorem test_dec_h_pair :
    runs [0x25] { zero with h := 0x01, l := 0x05, params := { Params.default with inc8ZSource := .pair } } =
      some ([0x0040, 0, 0, 0x0005, 0, 0x0001], 4, .running) := by decide

/-- V23. -/
theorem test_dec_l :
    runs [0x2D] zero =
      some ([0x0060, 0, 0, 0x00FF, 0, 0x0001], 4, .running) := by decide

/-- S3. -/
theorem test_add_hl_bc :
    runs [0x09] { zero with h := 0x0F, l := 0xFF, c := 0x01 } =
      some ([0x0020, 0x0001, 0, 0x1000, 0, 0x0001], 8, .running) := by decide

/-- V26. -/
theorem test_add_hl_bc_clears_flags :
    runs [0x09] { zero with l := 0x01, c := 0x01, f := 0xF0 } =
      some ([0, 0x0001, 0, 0x0002, 0, 0x0001], 8, .running) := by decide

/-- S4. -/
theorem test_add_hl_de :
    runs [0x19] { zero with h := 0xFF, l := 0xFF, e := 0x01 } =
      some ([0x0030, 0, 0x0001, 0, 0, 0x0001], 8, .running) := by decide

/-- V24. -/
theorem test_add_hl_de_keeps_no_z :
    runs [0x19] { zero with h := 0x10, d := 0xF0, f := 0xC0 } =
      some ([0x0010, 0, 0xF000, 0, 0, 0x0001], 8, .running) := by decide

/-- V25. -/
theorem test_add_hl_hl :
    runs [0x29] { zero with h := 0x88 } =
      some ([0x0030, 0, 0, 0x1000, 0, 0x0001], 8, .running) := by decide

/-- V29. -/
theorem test_ld_ind_bc_a :
    bus .ldIndBcA { zero with a := 0x5A, b := 0xC0 } =
      some ([.write 0xC000 0x5A], [(0xC000, 0x5A)]) := by decide

/-- V29. -/
theorem test_ld_ind_bc_a_registers :
    runs [0x02] { zero with a := 0x5A, b := 0xC0 } =
      some ([0x5A00, 0xC000, 0, 0, 0, 0x0001], 8, .running) := by decide

/-- R252. -/
theorem test_ld_ind_de_a :
    bus .ldIndDeA { zero with a := 0x5A, d := 0xC0, mem := [(0xC000, 0x11)] } =
      some ([.write 0xC000 0x5A], [(0xC000, 0x5A)]) := by decide

/-- S12: the write uses the old HL. -/
theorem test_ld_ind_hl_inc_a :
    bus .ldIndHlIncA { zero with a := 0x17, h := 0xFF, l := 0xFF } =
      some ([.write 0xFFFF 0x17], [(0xFFFF, 0x17)]) := by decide

/-- S12. -/
theorem test_ld_ind_hl_inc_a_registers :
    runs [0x22] { zero with h := 0xFF, l := 0xFF } =
      some ([0, 0, 0, 0, 0, 0x0001], 8, .running) := by decide

/-- P3. -/
theorem test_ld_a_ind_bc :
    runs [0x0A] { zero with b := 0xC0, mem := [(0xC000, 0x85)] } =
      some ([0x8500, 0xC000, 0, 0, 0, 0x0001], 8, .running) := by decide

/-- V30. -/
theorem test_ld_a_ind_de :
    runs [0x1A] { zero with mem := [(0x0000, 0x3C)] } =
      some ([0x3C00, 0, 0, 0, 0, 0x0001], 8, .running) := by decide

/-- V31: no Z. -/
theorem test_ld_a_ind_hl_inc :
    runs [0x2A] { zero with a := 0x5A, h := 0xC0 } =
      some ([0, 0, 0, 0xC001, 0, 0x0001], 8, .running) := by decide

/-- P4: the read uses the old HL. -/
theorem test_ld_a_ind_hl_inc_bus :
    bus .ldAIndHlInc { zero with h := 0xC0, mem := [(0xC000, 0x11)] } =
      some ([.read 0xC000 0x11], [(0xC000, 0x11)]) := by decide

/-- V32, with R68's bytes: the high byte goes first, the second address wraps. -/
theorem test_ld_ind_a16_sp :
    bus (.ldIndA16Sp 0xFFFF) { zero with sp := 0x1234 } =
      some ([.write 0x0000 0x34, .write 0xFFFF 0x12], [(0x0000, 0x34), (0xFFFF, 0x12)]) := by decide

/-- V32. -/
theorem test_ld_ind_a16_sp_registers :
    runs [0x08, 0xFF, 0xFF] zero =
      some ([0, 0, 0, 0, 0, 0x0003], 20, .running) := by decide

/-- S6. -/
theorem test_jr_forward :
    after (.jrR8 0x05) { zero with pc := 0x0100 } =
      some ([0, 0, 0, 0, 0, 0x0105], 12, .running) := by decide

/-- V35, under both values of JR_DISP_SIGNED. -/
theorem test_jr_backward :
    after (.jrR8 0xFE) { zero with pc := 0x0100 } =
      some ([0, 0, 0, 0, 0, 0x00FE], 12, .running) ∧
    after (.jrR8 0xFE) { zero with pc := 0x0100, params := { Params.default with jrDispSigned := false } } =
      some ([0, 0, 0, 0, 0, 0x01FE], 12, .running) := by decide

/-- S7. -/
theorem test_jr_nz_not_taken :
    after (.jrNzR8 0x05) { zero with pc := 0x0100, f := 0x80 } =
      some ([0x0080, 0, 0, 0, 0, 0x0102], 8, .running) := by decide

/-- V40. -/
theorem test_jr_nz_taken :
    after (.jrNzR8 0x05) { zero with pc := 0x0100 } =
      some ([0, 0, 0, 0, 0, 0x0105], 12, .running) := by decide

/-- V37 and V38. -/
theorem test_jr_wraps :
    after (.jrR8 0x20) { zero with pc := 0xFFF0 } =
      some ([0, 0, 0, 0, 0, 0x0010], 12, .running) ∧
    runs [0x18, 0xF0] zero =
      some ([0, 0, 0, 0, 0, 0xFFF0], 12, .running) := by decide

/-- S5. -/
theorem test_rlca :
    runs [0x07] { zero with a := 0x85 } =
      some ([0x0B10, 0, 0, 0, 0, 0x0001], 4, .running) := by decide

/-- V43: Z is cleared though the result is 0. -/
theorem test_rlca_zero :
    runs [0x07] { zero with f := 0xF0 } =
      some ([0, 0, 0, 0, 0, 0x0001], 4, .running) := by decide

/-- V46. -/
theorem test_rrca :
    runs [0x0F] { zero with a := 0x17 } =
      some ([0x8B10, 0, 0, 0, 0, 0x0001], 4, .running) := by decide

/-- V48. -/
theorem test_rla :
    runs [0x17] { zero with a := 0x0B, f := 0x10 } =
      some ([0x1700, 0, 0, 0, 0, 0x0001], 4, .running) := by decide

/-- V47. -/
theorem test_rla_zero :
    runs [0x17] { zero with a := 0x80 } =
      some ([0x0010, 0, 0, 0, 0, 0x0001], 4, .running) := by decide

/-- V50. -/
theorem test_rra :
    runs [0x1F] { zero with a := 0x8B, f := 0x10 } =
      some ([0xC510, 0, 0, 0, 0, 0x0001], 4, .running) := by decide

/-- V49. -/
theorem test_rra_zero :
    runs [0x1F] { zero with a := 0x01 } =
      some ([0x0010, 0, 0, 0, 0, 0x0001], 4, .running) := by decide

/-! ### Faults (60_exceptions.md) -/

/-- S10, the second step. -/
theorem test_fault_at_the_limit :
    record { start [0x00] with pc := 0x0001 } =
      some (.faulted, some ⟨.outOfBoundsFetch, 1, 0x0001, none, some 1⟩, 0) := by decide

/-- V7, V8, V33, V42. -/
theorem test_fault_at_operand_bytes :
    record (start [0x06]) = some (.faulted, some ⟨.outOfBoundsFetch, 1, 0x0000, some 0x06, some 1⟩, 0) ∧
    record (start [0x21, 0xAB]) = some (.faulted, some ⟨.outOfBoundsFetch, 1, 0x0000, some 0x21, some 2⟩, 0) ∧
    record (start [0x08, 0xC0]) = some (.faulted, some ⟨.outOfBoundsFetch, 1, 0x0000, some 0x08, some 2⟩, 0) ∧
    record { start [0x20] with f := 0x80 } = some (.faulted, some ⟨.outOfBoundsFetch, 1, 0x0000, some 0x20, some 1⟩, 0) := by decide

/-- V51, V52, V53. -/
theorem test_fault_unimplemented :
    record (start [0x3E, 0x01]) = some (.faulted, some ⟨.unimplementedOpcode, 2, 0x0000, some 0x3E, none⟩, 0) ∧
    record (start [0xCB, 0x00]) = some (.faulted, some ⟨.unimplementedOpcode, 2, 0x0000, some 0xCB, none⟩, 0) ∧
    record (start [0x28, 0x05]) = some (.faulted, some ⟨.unimplementedOpcode, 2, 0x0000, some 0x28, none⟩, 0) := by decide

/-- V54. -/
theorem test_fault_at_init_pc :
    record { start [0x00, 0x00, 0x00] with pc := 0x0005 } =
      some (.faulted, some ⟨.outOfBoundsFetch, 1, 0x0005, none, some 5⟩, 0) := by decide

/-- V8: a fault after one operand byte leaves the registers. -/
theorem test_fault_changes_nothing_else :
    runs [0x21, 0xAB] { zero with h := 0x12 } =
      some ([0, 0, 0, 0x1200, 0, 0], 0, .faulted) := by decide

/-- A program that fills the fetch space, with one byte at its end. -/
def full (last : Byte) : State := { start (List.replicate 0xFFFF 0x00 ++ [last]) with pc := 0xFFFF }

theorem length_full (last : Byte) : (full last).prog.length = 0x10000 := by
  simp [full, start, State.afterReset, -List.reduceReplicate]

theorem full_limit (last : Byte) : (full last).fetchLimit = 0x10000 := by
  rw [State.fetchLimit, length_full, Nat.min_self]

theorem getElem_append_last {p : List Byte} {v : Byte} {n : Nat} (h : p.length = n) : (p ++ [v])[n]? = some v := by
  subst h; simp

theorem full_fetch (last : Byte) : (full last).fetch 0xFFFF = some last :=
  (fetch_below (by rw [full_limit]; decide)).trans (getElem_append_last List.length_replicate)

/-- V9: the operand fetch at 0x10000 does not wrap. -/
theorem test_fault_at_the_top :
    step (full 0x06) = .next ((full 0x06).faultedWith (outOfBoundsRecord 0xFFFF (some 0x06) 0x10000)) := by
  have h (f : Nat → Option Byte) (h0 : f 0 = some 0x06) (h1 : f 1 = none) :
      decodeAt f = .outOfBounds 1 (some 0x06) := by
    unfold decodeAt
    simp only [h0]
    show decodeOperands _ 0x06 (.d8 .ldBD8) = _
    simp only [decodeOperands, h1]
  have hd : (full 0x06).decodeNext = .outOfBounds 1 (some 0x06) :=
    h _ (full_fetch _) (fetch_none_iff.mpr (full_limit 0x06).le)
  rw [step_running rfl (wfProgram_of_fetch (full_fetch 0x06)), stepRunning, hd]
  rfl

/-- 40_execution_cycle.md R120. -/
theorem test_stopped_and_faulted_do_not_step :
    next? (step { start [0x00] with run := .stopped }) = some { start [0x00] with run := .stopped } ∧
    next? (step { start [0x00] with run := .faulted }) = some { start [0x00] with run := .faulted } := by decide

/-- 60_exceptions.md R305. -/
theorem test_empty_program_takes_no_step : step State.reset = .refused .emptyProgramMemory := rfl

/-- 20_memory.md R63: on the open bus A gets the free value, and one is drawn. -/
theorem test_open_bus_read :
    exec .ldAIndDe State.reset = .next { State.reset with
      a := Config.busAnswer 0 [] 0, busLog := [.read 0 (Config.busAnswer 0 [] 0)], draws := 1, pc := 1, cyc := 8 } := rfl

/-- V34. -/
theorem test_store_leaves_program :
    (next? (step (start [0x02]))).map (fun t => t.prog) = some [0x02] := by decide

/-- 10_state.md R36, D11: every write of CYC is reduced. -/
theorem test_cycle_width :
    after .nop { zero with cyc := 14, params := { Params.default with cycleWidth := .bits 4 } } =
      some ([0, 0, 0, 0, 0, 0x0001], 2, .running) := by decide

/-- S9 under Run(). -/
theorem test_run_loop :
    (runLoop 1 (start [0x10, 0x00])).map view = some ([0, 0, 0, 0, 0, 0x0002], 4, .stopped) ∧
    runLoop 1 (start [0x00]) = none := by decide

/-! ### Witnesses: for each statement with hypotheses, states and operands that meet them together -/

/-- The hypotheses of the second clause of ExecutesAs. -/
abbrev RunsFrom (s : State) (bytes : List Byte) : Prop := s.run = .running ∧ s.BytesAt bytes

/-- The hypotheses of its third clause, for the fetch at offset k. -/
abbrev FaultsAt (s : State) (bytes : List Byte) (k : Nat) : Prop :=
  s.run = .running ∧ s.prog ≠ [] ∧ k < bytes.length ∧ s.BytesAt (bytes.take k) ∧
    min s.prog.length 0x10000 ≤ s.pc.toNat + k

/-- A program that ends k bytes after PC. -/
def cut (bytes : List Byte) : Nat → State
  | 0 => { start [0x00] with pc := 0x0001 }
  | k + 1 => start (bytes.take (k + 1))

/-- Both clauses, the third at every offset of the instruction. -/
abbrev Met (bytes : List Byte) : Prop :=
  RunsFrom (start bytes) bytes ∧ ∀ k < bytes.length, FaultsAt (cut bytes k) bytes k

theorem test_witness_NopAdvancesPcAndClock :
    Met [0x00] := by decide

theorem test_witness_StopEndsTheRun :
    Met [0x10] := by decide

theorem test_witness_LdR8LoadsTheImmediateByte :
    ∀ bytes ∈ [[0x06, 0xFF], [0x0E, 0xFF], [0x16, 0xFF], [0x1E, 0xFF], [0x26, 0xFF], [0x2E, 0xFF]],
      Met bytes := by decide

theorem test_witness_LdPairLoadsHighByteFirst :
    ∀ bytes ∈ [[0x01, 0xFF, 0x00], [0x11, 0xFF, 0x00], [0x21, 0xFF, 0x00]],
      Met bytes := by decide

theorem test_witness_IncDecPairCountMod65536 :
    ∀ bytes ∈ [[0x03], [0x13], [0x23], [0x0B], [0x1B], [0x2B]],
      Met bytes := by decide

theorem test_witness_IncR8CountsAndSetsFlags :
    ∀ bytes ∈ [[0x04], [0x0C], [0x14], [0x1C], [0x24], [0x2C]],
      Met bytes := by decide

theorem test_witness_DecR8CountsAndSetsFlags :
    ∀ bytes ∈ [[0x05], [0x0D], [0x15], [0x1D], [0x25], [0x2D]],
      Met bytes := by decide

theorem test_witness_AddHlAddsThePair :
    ∀ bytes ∈ [[0x09], [0x19], [0x29]],
      Met bytes := by decide

theorem test_witness_IndirectStoresWriteA :
    ∀ bytes ∈ [[0x02], [0x12], [0x22]],
      Met bytes := by decide

theorem test_witness_IndirectLoadsReadA :
    ∀ bytes ∈ [[0x0A], [0x1A], [0x2A]],
      Met bytes := by decide

theorem test_witness_StoreSpWritesBothBytes :
    Met [0x08, 0xFF, 0xFF] := by decide

theorem test_witness_JrJumpsFromTheOpcodeAddress :
    Met [0x18, 0x80] := by decide

theorem test_witness_JrNzJumpsWhenZIsClear :
    Met [0x20, 0x00] := by decide

theorem test_witness_RotatesOfAClearZNH :
    ∀ bytes ∈ [[0x07], [0x0F], [0x17], [0x1F]],
      Met bytes := by decide

/-- The third clause of ExecutesAs at the upper end of the fetch space, where FETCH_LIMIT is 0x10000. -/
theorem test_witness_FaultClauseAtTheTop : FaultsAt (full 0x06) [0x06, 0xFF] 1 := by
  refine ⟨rfl, List.append_ne_nil_of_right_ne_nil _ (by decide), by decide, ?_, (full_limit 0x06).le⟩
  intro k hk
  obtain rfl : k = 0 := by simpa using hk
  exact full_fetch 0x06

theorem test_witness_DecodeAndEncodeAgree :
    decode [0x10] = .instr .stop ∧ decode [0x08, 0xFF, 0xFF, 0x00] = .instr (.ldIndA16Sp 0xFFFF) := by decide

/-- The ends of the gaps, and an admitted opcode whose step faults. -/
theorem test_witness_OpcodesWithoutAnEntryFault :
    (∀ op ∈ [0x27, 0x28, 0x2F, 0x30, 0xFF],
      (start [op]).run = .running ∧ (start [op]).fetch 0 = some op ∧ Unadmitted op) ∧
    (start [0x06]).fetch 0 = some 0x06 ∧ ¬ Unadmitted 0x06 ∧ ¬ Unadmitted 0x26 ∧ ¬ Unadmitted 0x29 ∧
    ¬ Unadmitted 0x2E ∧ record (start [0x06]) = some (.faulted, some ⟨.outOfBoundsFetch, 1, 0, some 0x06, some 1⟩, 0) := by decide

theorem test_witness_StepRunsTheDecodedInstruction :
    (start [0x08, 0xC0, 0x20]).run = .running ∧
    (start [0x08, 0xC0, 0x20]).BytesAt (Instr.fetchedBytes (.ldIndA16Sp 0xC020)) := by decide

/-- One state for each way the first fault is found, and one without a fault. -/
theorem test_witness_TheStepFaultsAsItsFirstFaultSays :
    (∀ s ∈ [start [0x00], start [0x27], start [0x06], start [0x01, 0x12], { start [0x00] with pc := 0x0001 }],
      s.run = .running ∧ s.prog ≠ []) ∧
    (start [0x00]).firstFault = none ∧ (start [0x27]).firstFault = some (unimplementedRecord 0 0x27) ∧
    (start [0x06]).firstFault = some (outOfBoundsRecord 0 (some 0x06) 1) ∧
    (start [0x01, 0x12]).firstFault = some (outOfBoundsRecord 0 (some 0x01) 2) ∧
    State.firstFault { start [0x00] with pc := 0x0001 } = some (outOfBoundsRecord 1 none 1) := by decide

/-- The indices on either side of the limit. -/
theorem test_witness_OpcodeFetchBeyondTheLimitFaults :
    (start [0x00]).run = .running ∧ (start [0x00]).prog ≠ [] ∧
    (start [0x00]).pc.toNat < min (start [0x00]).prog.length 0x10000 ∧
    min (cut [] 0).prog.length 0x10000 ≤ (cut [] 0).pc.toNat ∧ (cut [] 0).run = .running ∧ (cut [] 0).prog ≠ [] := by decide

theorem test_witness_FaultChangesOnlyRunAndRecord :
    (start [0x27]).run = .running ∧ ∃ t, step (start [0x27]) = .next t ∧ t.run = .faulted := ⟨rfl, _, rfl, rfl⟩

/-- One state for each of the three outcomes. -/
theorem test_witness_StepOutcomeIsNextStopOrFault :
    ∀ s ∈ [start [0x00], start [0x10], start [0x27]], s.run = .running ∧ s.prog ≠ [] := by decide

theorem test_witness_StoppedAndFaultedCoresDoNotStep :
    State.run { zero with run := .stopped } ≠ .running ∧ State.run { zero with run := .faulted } ≠ .running := by decide

theorem test_witness_EveryStepKeepsTheInvariant :
    (start [0x34]).Inv ∧ (start [0x02]).Inv ∧ (∃ t, step (start [0x34]) = .next t) ∧ ∃ t, step (start [0x02]) = .next t :=
  ⟨⟨by decide, True.intro, by decide, by decide⟩, ⟨by decide, True.intro, by decide, by decide⟩, ⟨_, rfl⟩, ⟨_, rfl⟩⟩

theorem test_witness_ResetMeetsTheInvariant :
    ∃ s, State.resetWith [0x00] 0xFFFF { Params.default with cycleWidth := .bits 0 } = some s := ⟨_, rfl⟩

theorem test_witness_ReachableStatesKeepSpAndInputs :
    State.ReachableFrom [0x00] 0 Params.default
      { State.afterReset [0x00] 0 Params.default with pc := 1, cyc := 4 } := ⟨_, 1, rfl, rfl⟩

theorem test_witness_ProgramMemoryIsNeverWritten :
    ∃ t, Sys2Proof.core.run 2 (start [0x02, 0x10]) = .next t := ⟨_, rfl⟩

theorem test_witness_ResetGivesTheResetState :
    ([0x00] : List Byte) ≠ [] ∧ State.reset.run = .running ∧ State.reset.prog = [] := by decide

theorem test_witness_FrameOfLoadsAndPairCounts :
    (∀ i ∈ [Instr.ldLD8 0xFF, .ldHlD16 0xFFFF, .incBc, .decDe], i.family ∈ [.loadR8, .loadPair, .incPair, .decPair]) ∧
    (∃ t, exec (.ldLD8 0xFF) zero = .next t) ∧ (∃ t, exec (.ldHlD16 0xFFFF) zero = .next t) ∧
    (∃ t, exec .incBc zero = .next t) ∧ ∃ t, exec .decDe zero = .next t :=
  ⟨by decide, exec_answers_next _ _, exec_answers_next _ _, exec_answers_next _ _, exec_answers_next _ _⟩

theorem test_witness_FrameOfFlagWriters :
    (∀ i ∈ [Instr.incB, .decL, .addHlHl, .rra], i.family ∈ [.incR8, .decR8, .addHl, .rotate]) ∧
    (∃ t, exec .incB zero = .next t) ∧ (∃ t, exec .decL zero = .next t) ∧
    (∃ t, exec .addHlHl zero = .next t) ∧ ∃ t, exec .rra zero = .next t :=
  ⟨by decide, exec_answers_next _ _, exec_answers_next _ _, exec_answers_next _ _, exec_answers_next _ _⟩

/-- The stored addresses wrap; every other address, 1 among them, lies outside. -/
theorem test_witness_FrameOfStores :
    (∀ i ∈ [Instr.ldIndHlIncA, .ldIndA16Sp 0xFFFF], i.family ∈ [.storeA, .storeSp]) ∧
    (∃ t, exec .ldIndHlIncA zero = .next t) ∧ (∃ t, exec (.ldIndA16Sp 0xFFFF) zero = .next t) ∧
    (storedAddrs (.ldIndA16Sp 0xFFFF) zero).map BitVec.toNat = [0xFFFF, 0x0000] :=
  ⟨by decide, exec_answers_next _ _, exec_answers_next _ _, by decide⟩

theorem test_witness_FrameOfIndirectLoads :
    Instr.ldAIndHlInc.family = .loadA ∧ ∃ t, exec .ldAIndHlInc zero = .next t := ⟨rfl, exec_answers_next _ _⟩

theorem test_witness_FrameOfNopStopAndJumps :
    (∀ i ∈ [Instr.nop, .stop, .jrR8 0x80, .jrNzR8 0x7F], i.family ∈ [.noOp, .stop, .jump]) ∧
    (∃ t, exec .nop zero = .next t) ∧ (∃ t, exec .stop zero = .next t) ∧
    (∃ t, exec (.jrR8 0x80) zero = .next t) ∧ ∃ t, exec (.jrNzR8 0x7F) zero = .next t :=
  ⟨by decide, exec_answers_next _ _, exec_answers_next _ _, exec_answers_next _ _, exec_answers_next _ _⟩

theorem test_witness_FlagEffectsOfEveryInstruction :
    (∃ t, exec .incB zero = .next t) ∧ (∃ t, exec .decB zero = .next t) ∧ (∃ t, exec .addHlBc zero = .next t) ∧
    (∃ t, exec .rla zero = .next t) ∧ ∃ t, exec .stop zero = .next t :=
  ⟨exec_answers_next _ _, exec_answers_next _ _, exec_answers_next _ _, exec_answers_next _ _, exec_answers_next _ _⟩

theorem test_witness_BusReadsAreOpenOrFlat :
    State.reset.params.bus = .anyByte ∧ zero.params.bus = .flat := by decide

/-- Another address and the same one. -/
theorem test_witness_FlatBusReturnsTheLastByteWritten :
    let s : State := { zero with a := 0x5A, d := 0x01, mem := [(0x0100, 0x33)] }
    s.params.bus = .flat ∧ Memory.wf s.mem = true ∧ (∃ t u, exec .ldIndBcA s = .next t ∧ exec .ldAIndDe t = .next u) ∧
    (∃ v, exec .ldAIndDe s = .next v ∧ v.a = 0x33) ∧ s.readPair .de ≠ s.readPair .bc ∧
    zero.readPair .de = zero.readPair .bc :=
  ⟨rfl, by decide, ⟨_, _, rfl, rfl⟩, ⟨_, rfl, rfl⟩, by decide, by decide⟩

/-- Both ends of the address space. -/
theorem test_witness_SpStoreLandsHighByteFirst :
    Memory.wf zero.mem = true ∧ (∃ t, exec (.ldIndA16Sp 0xFFFF) zero = .next t) ∧
    ∃ t, exec (.ldIndA16Sp 0x0000) zero = .next t := ⟨by decide, ⟨_, rfl⟩, ⟨_, rfl⟩⟩

theorem test_witness_EachTransactionIsIssuedOnceInOrder :
    (∃ t, exec (.ldIndA16Sp 0xFFFF) zero = .next t) ∧
    (start [0x08, 0xC0]).run = .running ∧ ∃ t, step (start [0x08, 0xC0]) = .next t ∧ t.run = .faulted := ⟨⟨_, rfl⟩, rfl, _, rfl, rfl⟩

theorem test_witness_PcAdvancesByLengthOrJumps :
    (∃ t, exec (.jrNzR8 0x05) zero = .next t) ∧ jumpTarget (.jrNzR8 0x05) zero = some 0x0005 ∧
    (∃ t, exec (.jrNzR8 0x05) { zero with f := 0x80 } = .next t) ∧
    jumpTarget (.jrNzR8 0x05) { zero with f := 0x80 } = none := ⟨⟨_, rfl⟩, by decide, ⟨_, rfl⟩, by decide⟩

theorem test_witness_CyclesAreChargedByTheTable :
    (∃ t, exec (.jrNzR8 0x05) zero = .next t) ∧ (start [0x27]).run = .running ∧
    (∃ t, step (start [0x27]) = .next t ∧ t.run = .faulted) ∧ ∃ t, step (start [0x00]) = .next t := ⟨⟨_, rfl⟩, rfl, ⟨_, rfl, rfl⟩, ⟨_, rfl⟩⟩

theorem test_witness_CycNeverDecreases :
    (start [0x00, 0x10]).params.cycleWidth = .unbounded ∧
    ∃ t, Sys2Proof.core.run 2 (start [0x00, 0x10]) = .next t := ⟨rfl, _, rfl⟩

theorem test_witness_JumpDisplacementIsSignedOrUnsigned :
    (∃ s : State, s.params.jrDispSigned = true) ∧ ∃ s : State, s.params.jrDispSigned = false :=
  ⟨⟨zero, rfl⟩, { zero with params := { Params.default with jrDispSigned := false } }, rfl⟩

theorem test_witness_SelfJumpLoopsForever :
    (start [0x18, 0x00]).run = .running ∧ (start [0x18, 0x00]).params.cycleWidth = .unbounded ∧
    (start [0x18, 0x00]).BytesAt [0x18, 0x00] ∧ (start [0x20, 0x00]).run = .running ∧
    (start [0x20, 0x00]).params.cycleWidth = .unbounded ∧ (start [0x20, 0x00]).BytesAt [0x20, 0x00] ∧
    (start [0x20, 0x00]).flagZ = false := by decide

theorem test_witness_RunEndsWhenRunLeavesRunning :
    (start [0x00, 0x10]).run = .running ∧ (∃ t, runLoop 2 (start [0x00, 0x10]) = some t) ∧
    ∃ u t, Sys2Proof.core.run 1 (start [0x00, 0x10]) = .next u ∧ u.run = .running ∧ step u = .next t ∧
      t.run ≠ .running := ⟨rfl, ⟨_, rfl⟩, _, _, rfl, rfl, rfl, by decide⟩

theorem test_witness_NoMeaningReadsProgramMemory :
    ∃ t, exec .ldAIndBc (start [0x0A]) = .next t := ⟨_, rfl⟩

end Sys2Proof.Tests
end

section
/-! Register pairs and their halves (10_state.md R22, R23). -/

namespace Sys2Proof.Machine

/-! ### The two bytes of a word as numbers -/

/-- A word is its high byte times 256 plus its low byte. -/
theorem toNat_eq_hiByte_loByte (w : Word) : w.toNat = (hiByte w).toNat * 256 + (loByte w).toNat := by
  rw [← toNat_joinBytes, joinBytes_hiByte_loByte]

theorem toNat_hiByte (w : Word) : (hiByte w).toNat = w.toNat / 256 := by
  have hw := toNat_eq_hiByte_loByte w
  have hlo := (loByte w).isLt
  omega

theorem toNat_loByte (w : Word) : (loByte w).toNat = w.toNat % 256 := by
  have hw := toNat_eq_hiByte_loByte w
  have hlo := (loByte w).isLt
  omega

/-! ### Reading the halves of a pair -/

/-- The halves of a pair are two registers, so writing one keeps the other. -/
@[simp] theorem pair_hi_ne_lo (rr : Pair) : rr.hi ≠ rr.lo := by
  cases rr <;> decide

/-- The high half written first survives the write of the low half. -/
theorem readR8_hi_writeHalves (s : State) (rr : Pair) (hi lo : Byte) :
    ((s.writeR8 rr.hi hi).writeR8 rr.lo lo).readR8 rr.hi = hi := by
  rw [readR8_writeR8, if_neg (pair_hi_ne_lo rr), readR8_writeR8, if_pos rfl]

theorem readR8_lo_writeHalves (s : State) (rr : Pair) (hi lo : Byte) :
    ((s.writeR8 rr.hi hi).writeR8 rr.lo lo).readR8 rr.lo = lo := by
  rw [readR8_writeR8, if_pos rfl]

/-- A pair is no separate storage (R22): its value is the two halves written, joined. -/
theorem readPair_writeHalves (s : State) (rr : Pair) (hi lo : Byte) :
    ((s.writeR8 rr.hi hi).writeR8 rr.lo lo).readPair rr = joinBytes hi lo := by
  rw [State.readPair, readR8_hi_writeHalves, readR8_lo_writeHalves]

theorem observePair_writeHalves (s : State) (rr : Pair) (hi lo : Byte) :
    ((s.writeR8 rr.hi hi).writeR8 rr.lo lo).observePair rr = [hi, lo] := by
  rw [State.observePair, readR8_hi_writeHalves, readR8_lo_writeHalves]

@[simp] theorem readR8_hi_writePair (s : State) (rr : Pair) (w : Word) :
    (s.writePair rr w).readR8 rr.hi = hiByte w :=
  readR8_hi_writeHalves s rr (hiByte w) (loByte w)

@[simp] theorem readR8_lo_writePair (s : State) (rr : Pair) (w : Word) :
    (s.writePair rr w).readR8 rr.lo = loByte w :=
  readR8_lo_writeHalves s rr (hiByte w) (loByte w)

/-- Settles O15: the halves are distinct registers, and joining two bytes and splitting a word are inverse. -/
theorem pairsReadBackTheirHalves : Obligations.PairsReadBackTheirHalves := by
  intro s rr
  constructor
  · intro hi lo
    have hval : (((s.writeR8 rr.hi hi).writeR8 rr.lo lo).readPair rr).toNat = hi.toNat * 256 + lo.toNat := by
      rw [readPair_writeHalves, toNat_joinBytes]
    exact ⟨readR8_hi_writeHalves s rr hi lo, readR8_lo_writeHalves s rr hi lo, hval, observePair_writeHalves s rr hi lo⟩
  · intro w
    have hhi : ((s.writePair rr w).readR8 rr.hi).toNat = w.toNat / 256 := by
      rw [readR8_hi_writePair, toNat_hiByte]
    have hlo : ((s.writePair rr w).readR8 rr.lo).toNat = w.toNat % 256 := by
      rw [readR8_lo_writePair, toNat_loByte]
    exact ⟨readPair_writePair_same s rr w, hhi, hlo⟩

end Sys2Proof.Machine
end

section
/-! The two memories and the data-bus transactions (20_memory.md R66, R68, R72). -/

namespace Sys2Proof.Machine

/-! ### What a step does to the program, and what a faulting step is -/

/-- No step writes ProgramMemory: an instruction keeps it, and so does taking a fault. -/
theorem step_prog {s t : State} (h : step s = .next t) : t.prog = s.prog := by
  obtain ⟨-, rfl⟩ | ⟨-, -, ⟨i, -, hexec⟩ | ⟨op, -, rfl⟩ | ⟨offset, op, -, rfl⟩⟩ := step_cases h
  · rfl
  · obtain ⟨-, -, hprog, -⟩ := exec_keeps hexec
    exact hprog
  · rfl
  · rfl

theorem run_prog {k : Nat} {s t : State} (h : Sys2Proof.core.run k s = .next t) : t.prog = s.prog :=
  run_keeps (P := fun u => u.prog = s.prog) (fun _ _ hu hstep => (step_prog hstep).trans hu) k rfl h

/-- Fetch looks at ProgramMemory and at nothing else of the state (R61). -/
theorem fetch_congr {s t : State} (h : t.prog = s.prog) (index : Nat) : t.fetch index = s.fetch index := by
  simp only [State.fetch, State.fetchLimit, h]

/-- No instruction faults: a RUNNING core is never FAULTED after one. -/
theorem exec_run_ne_faulted {i : Instr} {s t : State} (hrun : s.run = .running) (h : exec i s = .next t) :
    t.run ≠ .faulted := by
  rw [exec_run h, hrun]
  split <;> decide

/-- A step of a RUNNING core that ends in FAULTED takes a fault and does nothing else (60_exceptions.md R303). -/
theorem step_faulted {s t : State} (hrun : s.run = .running) (h : step s = .next t) (hf : t.run = .faulted) :
    ∃ kind opcode index, t = s.takeFault kind opcode index := by
  obtain ⟨hne, -⟩ | ⟨-, -, ⟨i, -, hexec⟩ | ⟨op, -, rfl⟩ | ⟨offset, op, -, rfl⟩⟩ := step_cases h
  · exact absurd hrun hne
  · exact absurd hf (exec_run_ne_faulted hrun hexec)
  · exact ⟨_, _, _, rfl⟩
  · exact ⟨_, _, _, rfl⟩

/-! ### The SP store and the post-increment forms: the one state each answers -/

theorem execLdIndA16Sp_next {a16 : Word} {s t : State} :
    exec (.ldIndA16Sp a16) s = .next t ↔
      t = ((s.memWrite a16 (hiByte s.sp)).memWrite (a16 + 1) (loByte s.sp)).finish 3 20 := by
  simp [exec, execLdIndA16Sp, eq_comm]

theorem execLdIndHlIncA_next {s t : State} :
    exec .ldIndHlIncA s = .next t ↔
      t = ((s.memWrite (s.readPair .hl) s.a).writePair .hl (s.readPair .hl + 1)).finish 1 8 := by
  simp [exec, execLdIndHlIncA, eq_comm]

theorem execLdAIndHlInc_next {s t : State} :
    exec .ldAIndHlInc s = .next t ↔
      t = (((s.memRead (s.readPair .hl)).2.writeR8 .a (s.busReply (s.readPair .hl))).writePair .hl
        (s.readPair .hl + 1)).finish 1 8 := by
  simp [exec, execLdAIndHlInc, eq_comm]

/-! ### The two bytes of the SP store -/

/-- The second address of the SP store wraps (R68). -/
theorem toNat_succ_word (w : Word) : (w + 1).toNat = (w.toNat + 1) % 65536 := by
  simp [BitVec.toNat_add]

theorem succ_toNat_mod_ne (w : Word) : w.toNat ≠ (w.toNat + 1) % 65536 := by
  have := w.isLt
  omega

/-- The bytes behind the bus after the SP store. -/
theorem execLdIndA16Sp_mem {a16 : Word} {s t : State} (h : exec (.ldIndA16Sp a16) s = .next t) :
    t.mem = Memory.write (Memory.write s.mem a16.toNat (hiByte s.sp)) (a16 + 1).toNat (loByte s.sp) := by
  simp [execLdIndA16Sp_next.mp h]

/-! ### The bus record after each instruction -/

theorem storeA_busLog {rr : Pair} {s t : State} (h : storeA rr s = .next t) :
    t.busLog = .write (s.readPair rr) s.a :: s.busLog := by
  simp [storeA_next.mp h]

theorem loadA_busLog {rr : Pair} {s t : State} (h : loadA rr s = .next t) :
    t.busLog = .read (s.readPair rr) (s.busReply (s.readPair rr)) :: s.busLog := by
  simp [loadA_next.mp h]

/-- An instruction outside the three families that name the data bus issues no transaction. -/
theorem exec_busLog_of_no_bus {i : Instr} {s t : State} (hi : i.family ∉ [.storeA, .loadA, .storeSp])
    (h : exec i s = .next t) : t.busLog = s.busLog := by
  cases exec_effect h
  case storeA rr hfam => simp [hfam] at hi
  case loadA rr hfam => simp [hfam] at hi
  case storeAInc hinstr => simp [hinstr, Instr.family] at hi
  case loadAInc hinstr => simp [hinstr, Instr.family] at hi
  case storeSp a16 hinstr => simp [hinstr, Instr.family] at hi
  all_goals simp [takeJump_eq]

/-- The record grows by exactly the transactions of the instruction's rule (R65, R72). -/
theorem exec_busLog {i : Instr} {s t : State} (h : exec i s = .next t) :
    t.busLog = (transactions i s).reverse ++ s.busLog := by
  cases i
  case ldIndBcA => simp [storeA_busLog (rr := .bc) h, transactions, readPair_bc]
  case ldIndDeA => simp [storeA_busLog (rr := .de) h, transactions, readPair_de]
  case ldAIndBc => simp [loadA_busLog (rr := .bc) h, transactions, readPair_bc]
  case ldAIndDe => simp [loadA_busLog (rr := .de) h, transactions, readPair_de]
  case ldIndHlIncA => simp [execLdIndHlIncA_next.mp h, transactions, readPair_hl]
  case ldAIndHlInc => simp [execLdAIndHlInc_next.mp h, transactions, readPair_hl]
  case ldIndA16Sp a16 => simp [execLdIndA16Sp_next.mp h, transactions]
  all_goals simp [exec_busLog_of_no_bus (by simp [Instr.family]) h, transactions]

/-! ### The obligations -/

/-- Settles O13: every step keeps the program, so every run does, and a fetch reads nothing else. -/
theorem programMemoryIsNeverWritten : Obligations.ProgramMemoryIsNeverWritten := by
  intro k s t h
  exact ⟨run_prog h, fetch_congr (run_prog h)⟩

/-- Settles O44: the two addresses differ even where the second wraps to 0, so the second write keeps the first byte. -/
theorem spStoreLandsHighByteFirst : Obligations.SpStoreLandsHighByteFirst := by
  intro a16 s t hwf h
  rw [execLdIndA16Sp_mem h, toNat_succ_word]
  have hhi : Memory.read (Memory.write s.mem a16.toNat (hiByte s.sp)) a16.toNat = hiByte s.sp :=
    Memory.read_write_same hwf
  constructor
  · rw [Memory.read_write_other (succ_toNat_mod_ne a16), hhi, toNat_hiByte]
  · rw [Memory.read_write_same (Memory.wf_write a16 _ hwf), toNat_loByte]

/-- Settles O45: exec adds the listed transactions, and taking a fault keeps the record. -/
theorem eachTransactionIsIssuedOnceInOrder : Obligations.EachTransactionIsIssuedOnceInOrder := by
  constructor
  · intro i s t h
    exact exec_busLog h
  · intro s t hrun h hf
    obtain ⟨kind, opcode, index, rfl⟩ := step_faulted hrun h hf
    exact takeFault_busLog s kind opcode index

end Sys2Proof.Machine
end

section
/-! Dispatch of the opcode byte and the displacement of a relative jump (30_encoding.md R95, R98, R101). -/

namespace Sys2Proof

/-! ### The opcodes without an entry -/

/-- The table holds no row for an opcode that R98 lists. -/
theorem dispatchTable_admitted : ∀ row ∈ dispatchTable, ¬ Machine.Unadmitted row.1 := by decide

/-- Below 0x30 the three gaps of R98 are the only opcodes without a row. -/
theorem dispatch_isSome_below :
    ∀ n < 0x30, ¬ Machine.Unadmitted (BitVec.ofNat 8 n) → (dispatch (BitVec.ofNat 8 n)).isSome := by decide

/-- The lookup finds no entry exactly for the 211 opcodes of R98. -/
theorem dispatch_eq_none_iff (op : Byte) : dispatch op = none ↔ Machine.Unadmitted op := by
  constructor
  · intro hnone
    by_contra hadm
    have hlt : op.toNat < 0x30 := by
      by_contra h30
      exact hadm (.inr (.inr (.inr (Nat.le_of_not_lt h30))))
    have hsome := dispatch_isSome_below op.toNat hlt
    rw [BitVec.ofNat_toNat, BitVec.setWidth_eq, hnone] at hsome
    exact absurd (hsome hadm) (by decide)
  · intro hun
    cases hentry : dispatch op with
    | none => rfl
    | some entry => exact absurd hun (dispatchTable_admitted _ (dispatch_mem hentry))

/-! ### What decoding gives once the opcode is fetched -/

/-- The operand fetch either completes the instruction or fails at an operand byte; it records the opcode. -/
theorem decodeOperands_cases (byteAt : Nat → Option Byte) (op : Byte) (entry : Entry) :
    (∃ i, decodeOperands byteAt op entry = .instr i) ∨
      ∃ offset, decodeOperands byteAt op entry = .outOfBounds offset (some op) := by
  cases entry
  case op i | stop2 i => exact .inl ⟨i, rfl⟩
  case d8 mk | r8 mk => cases h1 : byteAt 1 <;> simp [decodeOperands, h1]
  case d16 mk | a16 mk =>
    cases h1 : byteAt 1
    case none => simp [decodeOperands, h1]
    case some b1 => cases h2 : byteAt 2 <;> simp [decodeOperands, h1, h2]

/-- An opcode without an entry is reported whatever bytes follow (R98). -/
theorem decodeAt_of_dispatch_none {byteAt : Nat → Option Byte} {op : Byte} (h0 : byteAt 0 = some op)
    (hd : dispatch op = none) : decodeAt byteAt = .unimplemented op := by
  simp [decodeAt, h0, hd]

/-- With an entry, decoding is the operand fetch of that entry (R123). -/
theorem decodeAt_of_dispatch_some {byteAt : Nat → Option Byte} {op : Byte} {entry : Entry} (h0 : byteAt 0 = some op)
    (hd : dispatch op = some entry) : decodeAt byteAt = decodeOperands byteAt op entry := by
  simp [decodeAt, h0, hd]

end Sys2Proof

namespace Sys2Proof.Machine

/-! ### The step at a fetched opcode -/

theorem raiseUnimplemented_eq (s : State) (op : Byte) :
    s.raiseUnimplemented op = s.faultedWith (unimplementedRecord s.pc op) := rfl

theorem raiseOutOfBounds_fr (s : State) (offset : Nat) (op : Byte) :
    (s.raiseOutOfBounds offset (some op)).fr = some (outOfBoundsRecord s.pc (some op) (s.pc.toNat + offset)) := rfl

theorem stepRunning_of_instr {s : State} {i : Instr} (hdec : s.decodeNext = .instr i) :
    stepRunning s = exec i s := by
  simp [stepRunning, hdec]

theorem stepRunning_of_unimplemented {s : State} {op : Byte} (hdec : s.decodeNext = .unimplemented op) :
    stepRunning s = .next (s.raiseUnimplemented op) := by
  simp [stepRunning, hdec]

theorem stepRunning_of_outOfBounds {s : State} {offset : Nat} {op : Option Byte}
    (hdec : s.decodeNext = .outOfBounds offset op) : stepRunning s = .next (s.raiseOutOfBounds offset op) := by
  simp [stepRunning, hdec]

/-- At an admitted opcode, a core decodes an instruction or fails at an operand byte of it. -/
theorem decodeNext_of_admitted {s : State} {op : Byte} (hop : s.fetch s.pc.toNat = some op) (hadm : ¬ Unadmitted op) :
    (∃ i, s.decodeNext = .instr i) ∨ ∃ offset, s.decodeNext = .outOfBounds offset (some op) := by
  obtain ⟨entry, hentry⟩ := Option.ne_none_iff_exists'.mp (mt (dispatch_eq_none_iff op).mp hadm)
  rw [State.decodeNext, decodeAt_of_dispatch_some hop hentry]
  exact decodeOperands_cases _ op entry

/-- Settles O3: the dispatch table has no row exactly for the opcodes of R98, and with a row only an operand byte can
fail to be fetched. -/
theorem opcodesWithoutAnEntryFault : Obligations.OpcodesWithoutAnEntryFault := by
  intro s op hrun hop
  rw [step_running hrun (wfProgram_of_fetch hop)]
  constructor
  · intro hun
    have hdec : s.decodeNext = .unimplemented op := decodeAt_of_dispatch_none hop ((dispatch_eq_none_iff op).mpr hun)
    rw [stepRunning_of_unimplemented hdec, raiseUnimplemented_eq]
  · intro hadm t hstep hfault
    obtain ⟨i, hdec⟩ | ⟨offset, hdec⟩ := decodeNext_of_admitted hop hadm
    · rw [stepRunning_of_instr hdec] at hstep
      exact absurd hfault (exec_run_ne_faulted hrun hstep)
    · rw [stepRunning_of_outOfBounds hdec] at hstep
      cases hstep
      exact ⟨_, raiseOutOfBounds_fr s offset op⟩

/-! ### The jump displacement as a number -/

/-- Adding the sign-extended byte adds its signed value, mod 2^16. -/
theorem toNat_add_jrDisplacement_signed (w : Word) (r8 : Byte) :
    ((w + jrDisplacement true r8).toNat : Int) = ((w.toNat : Int) + r8.toInt) % 65536 := by
  rw [jrDisplacement, if_pos rfl, BitVec.signExtend, BitVec.toNat_add, BitVec.toNat_ofInt]
  omega

/-- Adding the zero-extended byte adds its unsigned value, mod 2^16. -/
theorem toNat_add_jrDisplacement_unsigned (w : Word) (r8 : Byte) :
    (w + jrDisplacement false r8).toNat = (w.toNat + r8.toNat) % 65536 := by
  have hr8 := r8.isLt
  rw [jrDisplacement, if_neg (by decide), BitVec.toNat_add, BitVec.toNat_setWidth]
  omega

theorem execJrR8_next {r8 : Byte} {s t : State} : exec (.jrR8 r8) s = .next t ↔ t = s.takeJump r8 := by
  simp [exec, execJrR8, eq_comm]

theorem takeJump_pc (s : State) (r8 : Byte) :
    (s.takeJump r8).pc = s.pc + jrDisplacement s.params.jrDispSigned r8 := rfl

/-- Settles O49: the two readings of the displacement byte, added to PC. -/
theorem jumpDisplacementIsSignedOrUnsigned : Obligations.JumpDisplacementIsSignedOrUnsigned := by
  intro r8 s
  refine ⟨s.takeJump r8, execJrR8_next.mpr rfl, rfl, ?_, ?_⟩
  · intro hsigned
    rw [takeJump_pc, hsigned, toNat_add_jrDisplacement_signed]
  · intro hunsigned
    rw [takeJump_pc, hunsigned, toNat_add_jrDisplacement_unsigned]

end Sys2Proof.Machine
end

section
/-! The execution cycle: opcode fetch, PC, CYC and the run request (40_execution_cycle.md R121, R125, R126, R128). -/

namespace Sys2Proof

/-- Without an opcode byte, decoding stops at offset 0 and has no opcode to report (R121). -/
theorem decodeAt_of_no_opcode {byteAt : Nat → Option Byte} (h0 : byteAt 0 = none) :
    decodeAt byteAt = .outOfBounds 0 none := by
  simp [decodeAt, h0]

theorem wfProgram_iff (prog : List Byte) : wfProgram prog = true ↔ prog ≠ [] := by
  simp [wfProgram]

/-- The length of an instruction by its family (the len column of 30_encoding.md R97). -/
def Family.length : Family → Nat
  | .noOp | .incPair | .decPair | .incR8 | .decR8 | .addHl | .storeA | .loadA | .rotate => 1
  | .stop | .loadR8 | .jump => 2
  | .loadPair | .storeSp => 3

theorem length_eq_family_length (i : Instr) : i.length = i.family.length := by
  cases i <;> rfl

end Sys2Proof

namespace Sys2Proof.Machine

/-! ### The opcode fetch -/

theorem raiseOutOfBounds_zero_eq (s : State) :
    s.raiseOutOfBounds 0 none = s.faultedWith (outOfBoundsRecord s.pc none s.pc.toNat) := rfl

theorem decodeNext_of_pc_beyond {s : State} (h : s.fetchLimit ≤ s.pc.toNat) :
    s.decodeNext = .outOfBounds 0 none :=
  decodeAt_of_no_opcode (fetch_none_iff.mpr h)

/-- Settles O6: a fetch at FETCH_LIMIT or above fails before any opcode is known, and one below it succeeds. -/
theorem opcodeFetchBeyondTheLimitFaults : Obligations.OpcodeFetchBeyondTheLimitFaults := by
  intro s hrun hprog
  constructor
  · intro hbeyond
    rw [step_running hrun ((wfProgram_iff s.prog).mpr hprog),
      stepRunning_of_outOfBounds (decodeNext_of_pc_beyond hbeyond), raiseOutOfBounds_zero_eq]
  · intro hbelow
    have hsome : s.fetch s.pc.toNat ≠ none := fun hnone => absurd (fetch_none_iff.mp hnone) (Nat.not_le.mpr hbelow)
    exact ⟨fetch_below hbelow, Option.isSome_iff_ne_none.mpr hsome⟩

/-! ### PC and CYC after an instruction -/

theorem execJrNzR8_next {r8 : Byte} {s t : State} :
    exec (.jrNzR8 r8) s = .next t ↔ t = if s.flagZ then s.finish 2 8 else s.takeJump r8 :=
  ⟨fun h => (Host.Outcome.next.inj h).symm, fun h => congrArg Host.Outcome.next h.symm⟩

theorem jumpTarget_jrR8 (r8 : Byte) (s : State) :
    jumpTarget (.jrR8 r8) s = some (s.pc + jrDisplacement s.params.jrDispSigned r8) := rfl

theorem jumpTarget_jrNzR8 (r8 : Byte) (s : State) :
    jumpTarget (.jrNzR8 r8) s =
      if s.flagZ then none else some (s.pc + jrDisplacement s.params.jrDispSigned r8) := rfl

/-- A taken jump moves PC to its target and charges 12 cycles, and does nothing else (47_relative_jumps.md R269). -/
theorem exec_of_jump_taken {i : Instr} {s t : State} {target : Word} (hj : jumpTarget i s = some target)
    (h : exec i s = .next t) : t = (s.jump target).tick 12 := by
  cases i
  case jrR8 r8 =>
    rw [jumpTarget_jrR8] at hj
    obtain rfl := Option.some.inj hj
    exact execJrR8_next.mp h
  case jrNzR8 r8 =>
    rw [execJrNzR8_next] at h
    rw [jumpTarget_jrNzR8] at hj
    split at hj <;> rename_i hz
    · exact nomatch hj
    · obtain rfl := Option.some.inj hj
      rwa [if_neg hz] at h
  all_goals exact nomatch hj

/-- A jump that is not taken is the end of its instruction and nothing else (47_relative_jumps.md R271). -/
theorem exec_of_jump_not_taken {i : Instr} {s t : State} (hi : i.family = .jump) (hj : jumpTarget i s = none)
    (h : exec i s = .next t) : t = s.finish 2 8 := by
  cases i
  case jrR8 r8 => exact nomatch hj
  case jrNzR8 r8 =>
    rw [execJrNzR8_next] at h
    rw [jumpTarget_jrNzR8] at hj
    split at hj <;> rename_i hz
    · rwa [if_pos hz] at h
    · exact nomatch hj
  all_goals exact nomatch hi

theorem cost_of_jump_taken {i : Instr} {s : State} {target : Word} (hj : jumpTarget i s = some target) :
    cost i s = 12 := by
  have hi : i.family = .jump := by
    cases i
    case jrR8 | jrNzR8 => rfl
    all_goals exact nomatch hj
  simp [cost, hi, hj]

theorem chargedCyc_eq (s : State) (n : Nat) : chargedCyc s n = s.cycAfter n := rfl

/-- Updates that keep PC, CYC and the parameters do not change what the end of an instruction does to PC and CYC. -/
theorem finish_pc_cyc {s u : State} (hpc : u.pc = s.pc) (hcyc : u.cyc = s.cyc) (hparams : u.params = s.params)
    (len n : Nat) :
    (u.finish len n).pc = s.pc + BitVec.ofNat 16 len ∧ (u.finish len n).cyc = s.cycAfter n := by
  simp [State.cycAfter, hpc, hcyc, hparams]

/-- Where no jump is taken, PC moves past the instruction and the cost of its family is charged (R125, R126). -/
theorem exec_pc_cyc_of_no_jump {i : Instr} {s t : State} (hj : jumpTarget i s = none) (h : exec i s = .next t) :
    t.pc = s.pc + BitVec.ofNat 16 i.length ∧ t.cyc = s.cycAfter (cost i s) := by
  rw [length_eq_family_length]
  cases exec_effect h
  case jump r8 hi | noJump hi =>
    simp [exec_of_jump_not_taken hi hj h, cost, hi, hj, Family.length]
  case stop hi | storeAInc hi | loadAInc hi | storeSp a16 hi =>
    subst hi
    exact finish_pc_cyc (by simp) (by simp) (by simp) _ _
  all_goals
    simp only [cost, *]
    exact finish_pc_cyc (by simp) (by simp) (by simp) _ _

/-- Settles O46: a taken jump writes its target, and every other instruction ends with the incrementer. -/
theorem pcAdvancesByLengthOrJumps : Obligations.PcAdvancesByLengthOrJumps := by
  intro i s t h
  cases hj : jumpTarget i s with
  | some target => exact congrArg State.pc (exec_of_jump_taken hj h)
  | none =>
    obtain ⟨hpc, -⟩ := exec_pc_cyc_of_no_jump hj h
    simp [hpc, BitVec.toNat_add]

theorem exec_cyc_eq_cost {i : Instr} {s t : State} (h : exec i s = .next t) : t.cyc = s.cycAfter (cost i s) := by
  cases hj : jumpTarget i s with
  | some target =>
    rw [exec_of_jump_taken hj h, cost_of_jump_taken hj]
    rfl
  | none =>
    obtain ⟨-, hcyc⟩ := exec_pc_cyc_of_no_jump hj h
    exact hcyc

/-! ### Nothing but CYC depends on CYC -/

/-- An instruction reads CYC only to write CYC: from another count it does the same to all else. In every arm but that
of `jr nz` both sides are then one chain of updates, whose other fields agree by computation; `jr nz` decides on Z first. -/
theorem exec_with_cyc {i : Instr} {s t : State} (h : exec i s = .next t) (n : Nat) :
    ∃ m, exec i { s with cyc := n } = .next { t with cyc := m } := by
  cases i
  case jrNzR8 r8 =>
    rw [execJrNzR8_next] at h
    split at h <;> rename_i hz <;> subst h
    · exact ⟨_, execJrNzR8_next.mpr (if_pos hz).symm⟩
    · exact ⟨_, execJrNzR8_next.mpr (if_neg hz).symm⟩
  all_goals
    obtain rfl := Host.Outcome.next.inj h
    exact ⟨_, rfl⟩

/-- Fetch and dispatch do not look at CYC, and taking a fault keeps it. -/
theorem step_with_cyc {s t : State} (h : step s = .next t) (n : Nat) :
    ∃ m, step { s with cyc := n } = .next { t with cyc := m } := by
  obtain ⟨hrun, rfl⟩ | ⟨hrun, hwf, hcases⟩ := step_cases h
  · exact ⟨n, step_terminal hrun⟩
  · rw [step_running (s := { s with cyc := n }) hrun hwf]
    obtain ⟨i, hdec, hexec⟩ | ⟨op, hdec, rfl⟩ | ⟨offset, op, hdec, rfl⟩ := hcases
    · rw [stepRunning_of_instr (s := { s with cyc := n }) hdec]
      exact exec_with_cyc hexec n
    · exact ⟨n, stepRunning_of_unimplemented hdec⟩
    · exact ⟨n, stepRunning_of_outOfBounds hdec⟩

/-- Settles O47: exec charges the cost of the family, taking a fault keeps CYC, and no other field depends on it. -/
theorem cyclesAreChargedByTheTable : Obligations.CyclesAreChargedByTheTable := by
  refine ⟨?_, ?_, ?_⟩
  · intro i s t h
    rw [chargedCyc_eq, exec_cyc_eq_cost h]
  · intro s t hrun h hf
    obtain ⟨kind, opcode, index, rfl⟩ := step_faulted hrun h hf
    exact takeFault_cyc s kind opcode index
  · intro s t h n
    exact step_with_cyc h n

/-! ### The run request -/

/-- A core that is not RUNNING stays as it is over any number of steps (R120). -/
theorem core_run_terminal {s : State} (hrun : s.run ≠ .running) : ∀ k, Sys2Proof.core.run k s = .next s
  | 0 => rfl
  | k + 1 => (core_run_next (step_terminal hrun) k).trans (core_run_terminal hrun k)

/-- Step number `k + 1` of a run from `s` is the one that leaves RUNNING, and `t` is the state after it (R128). -/
def LeavesRunningAfter (k : Nat) (s t : State) : Prop :=
  ∃ u : State, Sys2Proof.core.run k s = .next u ∧ u.run = .running ∧ step u = .next t ∧ t.run ≠ .running

theorem leavesRunningAfter_zero {s t : State} :
    LeavesRunningAfter 0 s t ↔ s.run = .running ∧ step s = .next t ∧ t.run ≠ .running := by
  constructor
  · rintro ⟨u, hu, hrest⟩
    obtain rfl : s = u := Host.Outcome.next.inj hu
    exact hrest
  · intro hrest
    exact ⟨s, rfl, hrest⟩

theorem leavesRunningAfter_succ {k : Nat} {s t : State} :
    LeavesRunningAfter (k + 1) s t ↔ ∃ v, step s = .next v ∧ LeavesRunningAfter k v t := by
  constructor
  · rintro ⟨u, hu, hrest⟩
    obtain ⟨v, hstep, hv⟩ := core_run_succ hu
    exact ⟨v, hstep, u, hv, hrest⟩
  · rintro ⟨v, hstep, u, hv, hrest⟩
    exact ⟨u, (core_run_next hstep k).trans hv, hrest⟩

/-- Only a RUNNING core leaves RUNNING. -/
theorem LeavesRunningAfter.running {k : Nat} {s t : State} (h : LeavesRunningAfter k s t) : s.run = .running := by
  by_contra hrun
  obtain ⟨u, hu, hurun, -⟩ := h
  obtain rfl : s = u := Host.Outcome.next.inj ((core_run_terminal hrun k).symm.trans hu)
  exact hrun hurun

theorem runLoop_terminal {s : State} (hrun : s.run ≠ .running) (budget : Nat) : runLoop budget s = some s := by
  cases budget <;> simp [runLoop, hrun]

theorem runLoop_zero_running {s : State} (hrun : s.run = .running) : runLoop 0 s = none := by
  simp [runLoop, hrun]

theorem runLoop_succ_running {s t : State} (hrun : s.run = .running) (budget : Nat) :
    runLoop (budget + 1) s = some t ↔ ∃ v, step s = .next v ∧ runLoop budget v = some t := by
  rw [runLoop, if_pos hrun]
  cases step s <;> simp

/-- By induction on the budget: the first step either leaves RUNNING, or the rest of the budget runs from its state. -/
theorem runLoop_eq_some_iff {budget : Nat} {s t : State} (hrun : s.run = .running) :
    runLoop budget s = some t ↔ ∃ k < budget, LeavesRunningAfter k s t := by
  induction budget generalizing s with
  | zero => simp [runLoop_zero_running hrun]
  | succ budget ih =>
    rw [runLoop_succ_running hrun]
    constructor
    · rintro ⟨v, hstep, hloop⟩
      by_cases hv : v.run = .running
      · obtain ⟨k, hk, hleaves⟩ := (ih hv).mp hloop
        exact ⟨k + 1, Nat.succ_lt_succ hk, leavesRunningAfter_succ.mpr ⟨v, hstep, hleaves⟩⟩
      · obtain rfl : v = t := Option.some.inj ((runLoop_terminal hv budget).symm.trans hloop)
        exact ⟨0, Nat.succ_pos budget, leavesRunningAfter_zero.mpr ⟨hrun, hstep, hv⟩⟩
    · rintro ⟨k, hk, hleaves⟩
      cases k with
      | zero =>
        obtain ⟨-, hstep, ht⟩ := leavesRunningAfter_zero.mp hleaves
        exact ⟨t, hstep, runLoop_terminal ht budget⟩
      | succ k =>
        obtain ⟨v, hstep, hv⟩ := leavesRunningAfter_succ.mp hleaves
        exact ⟨v, hstep, (ih hv.running).mpr ⟨k, Nat.lt_of_succ_lt_succ hk, hv⟩⟩

/-- Settles O51: Run() answers after exactly the step, if the budget reaches it, that leaves RUNNING. -/
theorem runEndsWhenRunLeavesRunning : Obligations.RunEndsWhenRunLeavesRunning := by
  intro budget s t hrun
  rw [runLoop_eq_some_iff hrun]
  constructor
  · rintro ⟨k, hk, u, hleaves⟩
    exact ⟨k, u, hk, hleaves⟩
  · rintro ⟨k, u, hk, hleaves⟩
    exact ⟨k, hk, u, hleaves⟩

end Sys2Proof.Machine
end

section
/-! The ALU and the flag byte (41_alu_flags.md R141 to R150, R154). -/

namespace Sys2Proof.Machine

/-! ### Repeated addition of one step -/

/-- Adding any step `2^w` times goes round the whole width back to the start. -/
theorem iterate_add_two_pow {w : Nat} (d v : BitVec w) : (· + d)^[2 ^ w] v = v := by
  have hround : (2 ^ w) • d = 0 := by
    apply BitVec.eq_of_toNat_eq
    rw [nsmul_eq_mul, BitVec.natCast_eq_ofNat, BitVec.toNat_mul, BitVec.toNat_ofNat]
    simp
  simp only [add_right_iterate, hround, add_zero]

theorem inc8_iterate (v : Byte) : (fun x => (inc8 x).1)^[256] v = v := by
  have hstep : (fun x => (inc8 x).1) = (· + 1) := funext inc8_result
  rw [hstep]
  exact iterate_add_two_pow 1 v

theorem dec8_iterate (v : Byte) : (fun x => (dec8 x).1)^[256] v = v := by
  have hstep : (fun x => (dec8 x).1) = (· + -1) := funext fun x => by rw [dec8_result, sub_eq_add_neg]
  rw [hstep]
  exact iterate_add_two_pow (-1) v

theorem inc16_iterate (v : Word) : inc16^[65536] v = v := by
  have hstep : inc16 = (· + 1) := funext inc16_eq
  rw [hstep]
  exact iterate_add_two_pow 1 v

theorem dec16_iterate (v : Word) : dec16^[65536] v = v := by
  have hstep : dec16 = (· + -1) := funext fun x => by rw [dec16_eq, sub_eq_add_neg]
  rw [hstep]
  exact iterate_add_two_pow (-1) v

/-- Settles O20: counting up adds 1 and counting down adds -1, mod 2^8 or 2^16. -/
theorem countingWrapsAround : Obligations.CountingWrapsAround := by
  constructor
  · intro v
    refine ⟨inc8_iterate v, dec8_iterate v, ?_⟩
    rw [dec8_result, inc8_result, add_sub_cancel_right]
  · intro v
    refine ⟨inc16_iterate v, dec16_iterate v, ?_⟩
    rw [dec16_eq, inc16_eq, add_sub_cancel_right]

/-! ### The flag byte as a number -/

/-- The truth table of the flag byte: each flag has the weight of its bit (R150). -/
theorem toNat_packFlags : ∀ z n h c : Bool,
    (packFlags z n h c).toNat = z.toNat * 128 + n.toNat * 64 + h.toNat * 32 + c.toNat * 16 := by decide

/-- Settles O16: the written byte has the four weights, and F is the one field written. -/
theorem flagByteHoldsTheFourFlags : Obligations.FlagByteHoldsTheFourFlags := by
  intro s z n h c
  exact ⟨toNat_packFlags z n h c, flagZ_writeFlags s z n h c, flagN_writeFlags s z n h c, flagH_writeFlags s z n h c,
    flagC_writeFlags s z n h c, rfl⟩

/-! ### Counts and sums as numbers -/

/-- Subtracting 1 from a word of `w` bits counts down mod `2^w`. -/
theorem toNat_sub_one_mod {w : Nat} (hw : 0 < w) (v : BitVec w) :
    (v - 1#w).toNat = (v.toNat + (2 ^ w - 1)) % 2 ^ w := by
  rw [BitVec.toNat_sub, BitVec.toNat_one hw, Nat.add_comm]

/-- Settles O17: the counts add and subtract 1, and the half-carry compares the low nibble. -/
theorem inc8AndDec8CountAndReportHalfCarry : Obligations.Inc8AndDec8CountAndReportHalfCarry := by
  intro v
  rw [inc8_result, dec8_result, inc8_half, dec8_half, decide_eq_true_iff, decide_eq_true_iff]
  exact ⟨BitVec.toNat_add v 1, Iff.rfl, toNat_sub_one_mod (by decide) v, Iff.rfl⟩

/-- Settles O18: the result is the sum mod 2^16, and each carry compares an exact sum with its bound. -/
theorem add16AddsAndReportsCarries : Obligations.Add16AddsAndReportsCarries := by
  intro x y
  rw [add16_result, add16_carries, decide_eq_true_iff, decide_eq_true_iff, inc16_eq, dec16_eq]
  exact ⟨BitVec.toNat_add x y, Iff.rfl, Iff.rfl, BitVec.toNat_add x 1, toNat_sub_one_mod (by decide) x⟩

/-! ### The rotates bit by bit -/

/-- Only bit 0 of the byte can be set. -/
@[simp] theorem getElem_bitByte (b : Bool) {k : Nat} (hk : k < 8) : (bitByte b)[k] = (decide (k = 0) && b) := by
  cases b <;> simp [bitByte]

/-- RLC8 is RL8 with bit 7 for the carry (R146). -/
theorem rlc8_eq_rl8 (v : Byte) : rlc8 v = rl8 v (v.getLsbD 7) := rfl

/-- RRC8 is RR8 with bit 0 for the carry (R147). -/
theorem rrc8_eq_rr8 (v : Byte) : rrc8 v = rr8 v (v.getLsbD 0) := rfl

theorem getLsbD_rl8 (v : Byte) (cin : Bool) {k : Nat} (hk : k < 8) :
    (rl8 v cin).1.getLsbD k = if k = 0 then cin else v.getLsbD (k - 1) := by
  cases k with
  | zero => simp [rl8]
  | succ k => simp [rl8, hk, BitVec.getLsbD_eq_getElem (Nat.lt_of_succ_lt hk)]

theorem getLsbD_rr8 (v : Byte) (cin : Bool) {k : Nat} (hk : k < 8) :
    (rr8 v cin).1.getLsbD k = if k = 7 then cin else v.getLsbD (k + 1) := by
  obtain rfl | hlt : k = 7 ∨ k < 7 := by omega
  · simp [rr8]
  · simp [rr8, hlt, Nat.ne_of_lt hlt, Nat.add_comm]

/-- The bit below `k` of a rotated byte; below bit 0 stands bit 7. -/
theorem getLsbD_rlc8 (v : Byte) {k : Nat} (hk : k < 8) : (rlc8 v).1.getLsbD k = v.getLsbD ((k + 7) % 8) := by
  rw [rlc8_eq_rl8, getLsbD_rl8 v _ hk]
  split <;> rename_i h0
  · rw [h0]
  · congr 1
    omega

/-- The bit above `k` of a rotated byte; above bit 7 stands bit 0. -/
theorem getLsbD_rrc8 (v : Byte) {k : Nat} (hk : k < 8) : (rrc8 v).1.getLsbD k = v.getLsbD ((k + 1) % 8) := by
  rw [rrc8_eq_rr8, getLsbD_rr8 v _ hk]
  split <;> rename_i h7
  · rw [h7]
  · congr 1
    omega

/-- Settles O19: the bits of the two rotates through the carry give those of the two rotates round the byte. -/
theorem rotatesMoveEachBit : Obligations.RotatesMoveEachBit := by
  intro v cin
  refine ⟨rfl, rfl, rfl, rfl, ?_⟩
  intro k hk
  exact ⟨getLsbD_rlc8 v hk, getLsbD_rrc8 v hk, getLsbD_rl8 v cin hk, getLsbD_rr8 v cin hk⟩

end Sys2Proof.Machine
end

section
/-! Instruction rules as a whole (00_scope.md R17), and nop and stop (42_nop_stop.md R160, R161). -/

namespace Sys2Proof.Machine

/-! ### From the effect of exec to the instruction rule -/

/-- A core that decodes an instruction has a program: its opcode was fetched. -/
theorem wfProgram_of_decodeNext {s : State} {i : Instr} (hdec : s.decodeNext = .instr i) :
    wfProgram s.prog = true := by
  obtain ⟨op, _, hop, _, _⟩ := decodeAt_instr hdec
  exact wfProgram_of_fetch hop

/-- With the fetched bytes of an instruction at PC, the step of a RUNNING core is its execution (R121 to R124). -/
theorem step_of_bytesAt {s : State} {i : Instr} (hrun : s.run = .running) (hbytes : s.BytesAt i.fetchedBytes) :
    step s = exec i s := by
  have hdec : s.decodeNext = .instr i := decodeNext_of_bytes i hbytes
  rw [step_running hrun (wfProgram_of_decodeNext hdec), stepRunning_of_instr hdec]

theorem raiseOutOfBounds_eq (s : State) (offset : Nat) (op : Option Byte) :
    s.raiseOutOfBounds offset op = s.faultedWith (outOfBoundsRecord s.pc op (s.pc.toNat + offset)) := rfl

/-- Where the first `k` bytes of a list stand at PC, every fetch at an offset below `k` gives its byte of the list. -/
theorem fetch_of_bytesAt_take {s : State} {bytes : List Byte} {k : Nat} (hk : k < bytes.length)
    (hbytes : s.BytesAt (bytes.take k)) : ∀ j < k, s.fetch (s.pc.toNat + j) = bytes[j]? := by
  intro j hj
  have hlen : j < (bytes.take k).length := by
    rw [List.length_take]
    omega
  rw [hbytes j hlen, List.getElem?_take_of_lt hj]

/-- Where the fetched bytes of an instruction stand at PC up to an offset and the byte there lies beyond FETCH_LIMIT,
a core decodes no instruction and stops at that offset (R121, R123). -/
theorem decodeNext_of_bytesAt_take {s : State} {i : Instr} {k : Nat} (hk : k < i.fetchedBytes.length)
    (hbytes : s.BytesAt (i.fetchedBytes.take k)) (hbeyond : s.fetchLimit ≤ s.pc.toNat + k) :
    s.decodeNext = .outOfBounds k (if k = 0 then none else i.fetchedBytes.head?) :=
  decodeAt_short i hk (fetch_of_bytesAt_take hk hbytes) (fetch_none_iff.mpr hbeyond)

/-- The rule of an instruction follows from its effect in exec: which bytes are fetched, and how a fetch of them fails,
is the decoder's part and the same for every instruction. -/
theorem executesAs_of_exec {i : Instr} {effect : State → State} (hexec : ∀ s, exec i s = .next (effect s)) :
    ExecutesAs i i.fetchedBytes effect := by
  intro s
  refine ⟨hexec s, ?_, ?_⟩
  · intro hrun hbytes
    rw [step_of_bytesAt hrun hbytes, hexec]
  · intro hrun hprog k hk hbytes hbeyond
    rw [step_running hrun ((wfProgram_iff s.prog).mpr hprog),
      stepRunning_of_outOfBounds (decodeNext_of_bytesAt_take hk hbytes hbeyond), raiseOutOfBounds_eq]

/-! ### nop and stop -/

theorem exec_nop (s : State) : exec .nop s = .next (s.finish 1 4) := rfl

theorem exec_stop (s : State) : exec .stop s = .next (s.finish 2 4).stopCore := rfl

/-- Settles O22: nop is the end of an instruction and nothing before it. -/
theorem nopAdvancesPcAndClock : Obligations.NopAdvancesPcAndClock := by
  refine executesAs_of_exec (i := .nop) fun s => ?_
  rw [exec_nop, finish_eq]
  rfl

/-- Settles O23: stop ends as an instruction of length 2 and leaves RUNNING; of its two bytes only the opcode is
fetched. -/
theorem stopEndsTheRun : Obligations.StopEndsTheRun := by
  refine executesAs_of_exec (i := .stop) fun s => ?_
  rw [exec_stop, finish_eq]
  rfl

end Sys2Proof.Machine
end

section
/-! The loads of an immediate byte and of an immediate word (43_immediate_loads.md R170 to R178). -/

namespace Sys2Proof.Machine

theorem writeR8_cycAfter (s : State) (r : Reg8) (v : Byte) (n : Nat) : (s.writeR8 r v).cycAfter n = s.cycAfter n := by
  rw [State.cycAfter, State.cycAfter, writeR8_params, writeR8_cyc]

theorem writePair_cycAfter (s : State) (rr : Pair) (v : Word) (n : Nat) :
    (s.writePair rr v).cycAfter n = s.cycAfter n := by
  rw [State.cycAfter, State.cycAfter, writePair_params, writePair_cyc]

/-- An instruction that executes as `loadR8` loads its byte into the register as an instruction of 2 bytes and
8 cycles. -/
theorem executesAs_of_loadR8 {i : Instr} {r : Reg8} {d8 : Byte} (hexec : ∀ s, exec i s = loadR8 r d8 s) :
    ExecutesAs i i.fetchedBytes
      (fun s => { s.writeR8 r d8 with pc := s.pc + 2, cyc := s.cycAfter 8 }) := by
  refine executesAs_of_exec fun s => ?_
  rw [hexec, loadR8, finish_eq, writeR8_pc, writeR8_cycAfter]
  rfl

/-- An instruction that executes as `loadPair` loads its word into the pair as an instruction of 3 bytes and
12 cycles. -/
theorem executesAs_of_loadPair {i : Instr} {rr : Pair} {d16 : Word} (hexec : ∀ s, exec i s = loadPair rr d16 s) :
    ExecutesAs i i.fetchedBytes
      (fun s => { s.writePair rr d16 with pc := s.pc + 3, cyc := s.cycAfter 12 }) := by
  refine executesAs_of_exec fun s => ?_
  rw [hexec, loadPair, finish_eq, writePair_pc, writePair_cycAfter]
  rfl

/-- Settles O24: each of the six forms executes as `loadR8` of its register. -/
theorem ldR8LoadsTheImmediateByte : Obligations.LdR8LoadsTheImmediateByte := by
  refine ⟨fun d8 => ?_, fun d8 => ?_, fun d8 => ?_, fun d8 => ?_, fun d8 => ?_, fun d8 => ?_⟩
  · exact executesAs_of_loadR8 (i := .ldBD8 d8) (r := .b) fun _ => rfl
  · exact executesAs_of_loadR8 (i := .ldCD8 d8) (r := .c) fun _ => rfl
  · exact executesAs_of_loadR8 (i := .ldDD8 d8) (r := .d) fun _ => rfl
  · exact executesAs_of_loadR8 (i := .ldED8 d8) (r := .e) fun _ => rfl
  · exact executesAs_of_loadR8 (i := .ldHD8 d8) (r := .h) fun _ => rfl
  · exact executesAs_of_loadR8 (i := .ldLD8 d8) (r := .l) fun _ => rfl

/-- Settles O25: each of the three forms executes as `loadPair` of its pair, whose high half takes the first byte
after the opcode. -/
theorem ldPairLoadsHighByteFirst : Obligations.LdPairLoadsHighByteFirst := by
  refine ⟨fun d16 => ?_, fun d16 => ?_, fun d16 => ?_⟩
  · exact executesAs_of_loadPair (i := .ldBcD16 d16) (rr := .bc) fun _ => rfl
  · exact executesAs_of_loadPair (i := .ldDeD16 d16) (rr := .de) fun _ => rfl
  · exact executesAs_of_loadPair (i := .ldHlD16 d16) (rr := .hl) fun _ => rfl

end Sys2Proof.Machine
end

section
/-! The counts of a pair and of a register (44_incdec.md R199 to R225). -/

namespace Sys2Proof.Machine

/-! ### Counting a pair -/

/-- An instruction that replaces a pair by a function of its old value is one of 1 byte and 8 cycles, and writes the
two halves alone. -/
theorem executesAs_of_countPair {i : Instr} {rr : Pair} {count : Word → Word}
    (hexec : ∀ s, exec i s = .next ((s.writePair rr (count (s.readPair rr))).finish 1 8)) :
    ExecutesAs i i.fetchedBytes
      (fun s => { s.writePair rr (count (s.readPair rr)) with pc := s.pc + 1, cyc := s.cycAfter 8 }) := by
  refine executesAs_of_exec fun s => ?_
  rw [hexec, finish_eq, writePair_pc, writePair_cycAfter]
  rfl

theorem executesAs_of_incPair {i : Instr} {rr : Pair} (hexec : ∀ s, exec i s = incPair rr s) :
    ExecutesAs i i.fetchedBytes
      (fun s => { s.writePair rr (s.readPair rr + 1) with pc := s.pc + 1, cyc := s.cycAfter 8 }) :=
  executesAs_of_countPair (count := (· + 1)) fun s => (hexec s).trans (incPair_next.mpr rfl)

theorem executesAs_of_decPair {i : Instr} {rr : Pair} (hexec : ∀ s, exec i s = decPair rr s) :
    ExecutesAs i i.fetchedBytes
      (fun s => { s.writePair rr (s.readPair rr - 1) with pc := s.pc + 1, cyc := s.cycAfter 8 }) :=
  executesAs_of_countPair (count := (· - 1)) fun s => (hexec s).trans (decPair_next.mpr rfl)

/-- Settles O26: each of the six forms executes as the count of its pair, up or down. -/
theorem incDecPairCountMod65536 : Obligations.IncDecPairCountMod65536 := by
  refine ⟨?_, ?_, ?_, ?_, ?_, ?_⟩
  · exact executesAs_of_incPair (i := .incBc) (rr := .bc) fun _ => rfl
  · exact executesAs_of_incPair (i := .incDe) (rr := .de) fun _ => rfl
  · exact executesAs_of_incPair (i := .incHl) (rr := .hl) fun _ => rfl
  · exact executesAs_of_decPair (i := .decBc) (rr := .bc) fun _ => rfl
  · exact executesAs_of_decPair (i := .decDe) (rr := .de) fun _ => rfl
  · exact executesAs_of_decPair (i := .decHl) (rr := .hl) fun _ => rfl

/-! ### Counting a register -/

theorem other_ne (r : Reg8) : r.other ≠ r := by
  cases r <;> decide

theorem z8_eq_countedZ (s : State) (r : Reg8) (res : Byte) :
    s.z8 r res = countedZ s.params.inc8ZSource res (s.readR8 r.other) := rfl

/-- The write of a counted register reads nothing but the state before it: Z8 takes the other half of the pair, which
the result does not touch (R143). -/
theorem writeCounted_eq (s : State) (r : Reg8) (res : Byte) (n half : Bool) :
    s.writeCounted r res n half =
      (s.writeR8 r res).writeFlags (countedZ s.params.inc8ZSource res (s.readR8 r.other)) n half s.flagC := by
  rw [State.writeCounted, z8_eq_countedZ, writeR8_params, readR8_writeR8, if_neg (other_ne r)]

theorem writeCounted_cycAfter (s : State) (r : Reg8) (res : Byte) (n half : Bool) (k : Nat) :
    (s.writeCounted r res n half).cycAfter k = s.cycAfter k := by
  rw [writeCounted_eq]
  exact writeR8_cycAfter s r res k

/-- An instruction that writes a register with a function of its old value, and F from the result and a half-carry, is
one of 1 byte and 4 cycles. -/
theorem executesAs_of_countR8 {i : Instr} {r : Reg8} {count : Byte → Byte} {n : Bool} {half : Byte → Bool}
    (hexec : ∀ s, exec i s = .next ((s.writeCounted r (count (s.readR8 r)) n (half (s.readR8 r))).finish 1 4)) :
    ExecutesAs i i.fetchedBytes (fun s =>
      { s.writeR8 r (count (s.readR8 r)) with
        f := packFlags (countedZ s.params.inc8ZSource (count (s.readR8 r)) (s.readR8 r.other)) n
          (half (s.readR8 r)) s.flagC
        pc := s.pc + 1
        cyc := s.cycAfter 4 }) := by
  refine executesAs_of_exec fun s => ?_
  rw [hexec, finish_eq, writeCounted_cycAfter, writeCounted_eq, writeFlags_pc, writeR8_pc]
  rfl

theorem executesAs_of_incR8 {i : Instr} {r : Reg8} (hexec : ∀ s, exec i s = incR8 r s) :
    ExecutesAs i i.fetchedBytes (fun s =>
      { s.writeR8 r (s.readR8 r + 1) with
        f := packFlags (countedZ s.params.inc8ZSource (s.readR8 r + 1) (s.readR8 r.other)) false
          (decide ((s.readR8 r).toNat % 16 = 15)) s.flagC
        pc := s.pc + 1
        cyc := s.cycAfter 4 }) :=
  executesAs_of_countR8 (count := (· + 1)) (half := fun v => decide (v.toNat % 16 = 15))
    fun s => (hexec s).trans (incR8_next.mpr rfl)

theorem executesAs_of_decR8 {i : Instr} {r : Reg8} (hexec : ∀ s, exec i s = decR8 r s) :
    ExecutesAs i i.fetchedBytes (fun s =>
      { s.writeR8 r (s.readR8 r - 1) with
        f := packFlags (countedZ s.params.inc8ZSource (s.readR8 r - 1) (s.readR8 r.other)) true
          (decide ((s.readR8 r).toNat % 16 = 0)) s.flagC
        pc := s.pc + 1
        cyc := s.cycAfter 4 }) :=
  executesAs_of_countR8 (count := (· - 1)) (half := fun v => decide (v.toNat % 16 = 0))
    fun s => (hexec s).trans (decR8_next.mpr rfl)

/-- Settles O27: each of the six forms executes as `incR8` of its register. -/
theorem incR8CountsAndSetsFlags : Obligations.IncR8CountsAndSetsFlags := by
  refine ⟨?_, ?_, ?_, ?_, ?_, ?_⟩
  · exact executesAs_of_incR8 (i := .incB) (r := .b) fun _ => rfl
  · exact executesAs_of_incR8 (i := .incC) (r := .c) fun _ => rfl
  · exact executesAs_of_incR8 (i := .incD) (r := .d) fun _ => rfl
  · exact executesAs_of_incR8 (i := .incE) (r := .e) fun _ => rfl
  · exact executesAs_of_incR8 (i := .incH) (r := .h) fun _ => rfl
  · exact executesAs_of_incR8 (i := .incL) (r := .l) fun _ => rfl

/-- Settles O28: each of the six forms executes as `decR8` of its register. -/
theorem decR8CountsAndSetsFlags : Obligations.DecR8CountsAndSetsFlags := by
  refine ⟨?_, ?_, ?_, ?_, ?_, ?_⟩
  · exact executesAs_of_decR8 (i := .decB) (r := .b) fun _ => rfl
  · exact executesAs_of_decR8 (i := .decC) (r := .c) fun _ => rfl
  · exact executesAs_of_decR8 (i := .decD) (r := .d) fun _ => rfl
  · exact executesAs_of_decR8 (i := .decE) (r := .e) fun _ => rfl
  · exact executesAs_of_decR8 (i := .decH) (r := .h) fun _ => rfl
  · exact executesAs_of_decR8 (i := .decL) (r := .l) fun _ => rfl

end Sys2Proof.Machine
end

section
/-! The 16-bit add into HL (45_add16.md R239 to R242). -/

namespace Sys2Proof.Machine

/-- The cycle counter and its width are not touched by a flag write. -/
theorem writeFlags_cycAfter (s : State) (z n h c : Bool) (k : Nat) :
    (s.writeFlags z n h c).cycAfter k = s.cycAfter k := rfl

/-- An instruction that executes as `addHl` is one of 1 byte and 8 cycles that writes HL and F, both from the values
that HL and the pair held before it. -/
theorem executesAs_of_addHl {i : Instr} {rr : Pair} (hexec : ∀ s, exec i s = addHl rr s) :
    ExecutesAs i i.fetchedBytes (fun s =>
      { s.writePair .hl (s.readPair .hl + s.readPair rr) with
        f := packFlags false false
          (decide (4096 ≤ (s.readPair .hl).toNat % 4096 + (s.readPair rr).toNat % 4096))
          (decide (65536 ≤ (s.readPair .hl).toNat + (s.readPair rr).toNat))
        pc := s.pc + 1
        cyc := s.cycAfter 8 }) := by
  refine executesAs_of_exec fun s => ?_
  rw [hexec, addHl_next.mpr rfl, finish_eq, writeFlags_cycAfter, writePair_cycAfter, writeFlags_pc, writePair_pc]
  rfl

/-- Settles O29: each of the three forms executes as `addHl` of its pair. -/
theorem addHlAddsThePair : Obligations.AddHlAddsThePair := by
  refine ⟨?_, ?_, ?_⟩
  · exact executesAs_of_addHl (i := .addHlBc) (rr := .bc) fun _ => rfl
  · exact executesAs_of_addHl (i := .addHlDe) (rr := .de) fun _ => rfl
  · exact executesAs_of_addHl (i := .addHlHl) (rr := .hl) fun _ => rfl

end Sys2Proof.Machine
end

section
/-! The indirect loads and stores and the SP store (46_indirect_loads.md R249 to R256). -/

namespace Sys2Proof.Machine

/-- A write transaction touches neither the cycle counter nor its width. -/
theorem memWrite_cycAfter (s : State) (addr : Word) (v : Byte) (n : Nat) :
    (s.memWrite addr v).cycAfter n = s.cycAfter n := rfl

/-- A read transaction touches neither the cycle counter nor its width. -/
theorem memRead_cycAfter (s : State) (addr : Word) (n : Nat) :
    (s.memRead addr).2.cycAfter n = s.cycAfter n := rfl

/-! ### The stores of A -/

/-- An instruction that executes as `storeA` is one of 1 byte and 8 cycles that issues one write of A at its pair's
value. -/
theorem executesAs_of_storeA {i : Instr} {rr : Pair} (hexec : ∀ s, exec i s = storeA rr s) :
    ExecutesAs i i.fetchedBytes
      (fun s => { s.memWrite (s.readPair rr) s.a with pc := s.pc + 1, cyc := s.cycAfter 8 }) := by
  refine executesAs_of_exec fun s => ?_
  rw [hexec, storeA_next.mpr rfl, finish_eq, memWrite_cycAfter, memWrite_pc]
  rfl

/-- `ld (hl+),a` writes A at the value HL held before the count. -/
theorem executesAs_ldIndHlIncA :
    ExecutesAs .ldIndHlIncA (Instr.fetchedBytes .ldIndHlIncA) (fun s =>
      { (s.memWrite (s.readPair .hl) s.a).writePair .hl (s.readPair .hl + 1) with
        pc := s.pc + 1
        cyc := s.cycAfter 8 }) := by
  refine executesAs_of_exec fun s => ?_
  rw [execLdIndHlIncA_next.mpr rfl, finish_eq, writePair_cycAfter, memWrite_cycAfter, writePair_pc, memWrite_pc]
  rfl

/-- Settles O30: the forms through BC and DE execute as `storeA` of their pair; the form through HL counts HL after
its write. -/
theorem indirectStoresWriteA : Obligations.IndirectStoresWriteA := by
  refine ⟨?_, ?_, ?_⟩
  · exact executesAs_of_storeA (i := .ldIndBcA) (rr := .bc) fun _ => rfl
  · exact executesAs_of_storeA (i := .ldIndDeA) (rr := .de) fun _ => rfl
  · exact executesAs_ldIndHlIncA

/-! ### The loads of A -/

/-- An instruction that executes as `loadA` is one of 1 byte and 8 cycles that issues one read at its pair's value and
puts the byte answered, whatever it is, into A. -/
theorem executesAs_of_loadA {i : Instr} {rr : Pair} (hexec : ∀ s, exec i s = loadA rr s) :
    ExecutesAs i i.fetchedBytes (fun s =>
      { (s.memRead (s.readPair rr)).2.writeR8 .a (s.busReply (s.readPair rr)) with
        pc := s.pc + 1
        cyc := s.cycAfter 8 }) := by
  refine executesAs_of_exec fun s => ?_
  rw [hexec, loadA_next.mpr rfl, finish_eq, writeR8_cycAfter, memRead_cycAfter, writeR8_pc, memRead_pc]
  rfl

/-- `ld a,(hl+)` reads at the value HL held before the count. -/
theorem executesAs_ldAIndHlInc :
    ExecutesAs .ldAIndHlInc (Instr.fetchedBytes .ldAIndHlInc) (fun s =>
      { ((s.memRead (s.readPair .hl)).2.writeR8 .a (s.busReply (s.readPair .hl))).writePair .hl
          (s.readPair .hl + 1) with
        pc := s.pc + 1
        cyc := s.cycAfter 8 }) := by
  refine executesAs_of_exec fun s => ?_
  rw [execLdAIndHlInc_next.mpr rfl, finish_eq, writePair_cycAfter, writeR8_cycAfter, memRead_cycAfter, writePair_pc,
    writeR8_pc, memRead_pc]
  rfl

/-- Settles O31: the forms through BC and DE execute as `loadA` of their pair; the form through HL counts HL after
its read. -/
theorem indirectLoadsReadA : Obligations.IndirectLoadsReadA := by
  refine ⟨?_, ?_, ?_⟩
  · exact executesAs_of_loadA (i := .ldAIndBc) (rr := .bc) fun _ => rfl
  · exact executesAs_of_loadA (i := .ldAIndDe) (rr := .de) fun _ => rfl
  · exact executesAs_ldAIndHlInc

/-! ### The store of SP -/

/-- Settles O32: the effect is the two writes in order and then the end of an instruction of 3 bytes and 20 cycles, and
neither write touches PC or CYC. -/
theorem storeSpWritesBothBytes : Obligations.StoreSpWritesBothBytes := by
  intro a16
  refine executesAs_of_exec (i := .ldIndA16Sp a16) fun s => ?_
  rw [execLdIndA16Sp_next.mpr rfl, finish_eq, memWrite_cycAfter, memWrite_cycAfter, memWrite_pc, memWrite_pc]
  rfl

end Sys2Proof.Machine
end

section
/-! The relative jumps (47_relative_jumps.md R269 to R271). -/

namespace Sys2Proof.Machine

/-- The model's displacement is the one of 30_encoding.md R95. -/
theorem jrDisplacement_eq_displacement : jrDisplacement = displacement := rfl

/-- Settles O33: the effect is a taken jump in every state. -/
theorem jrJumpsFromTheOpcodeAddress : Obligations.JrJumpsFromTheOpcodeAddress := by
  intro r8
  refine executesAs_of_exec (i := .jrR8 r8) fun s => ?_
  rw [execJrR8_next.mpr rfl, takeJump_eq, jrDisplacement_eq_displacement]

/-- Settles O34: with Z set the effect is the end of an instruction of 2 bytes and 8 cycles, with Z clear a taken jump;
the bytes fetched are the same for both. -/
theorem jrNzJumpsWhenZIsClear : Obligations.JrNzJumpsWhenZIsClear := by
  intro r8
  refine executesAs_of_exec (i := .jrNzR8 r8) fun s => ?_
  rw [execJrNzR8_next, ← State.flagZ]
  split
  · rw [finish_eq]
    rfl
  · rw [takeJump_eq, jrDisplacement_eq_displacement]

end Sys2Proof.Machine
end

section
/-! Decoding and encoding agree (30_encoding.md R91, R93, R94, R97). -/

namespace Sys2Proof

/-- The bytes fetched of whatever instruction an entry completes to are its opcode and the operand bytes it took. -/
def Entry.EncodesAt (op : Byte) : Entry → Prop
  | .op i | .stop2 i => i.fetchedBytes = [op]
  | .d8 mk | .r8 mk => ∀ v, (mk v).fetchedBytes = [op, v]
  | .d16 mk | .a16 mk => ∀ w, (mk w).fetchedBytes = [op, hiByte w, loByte w]

/-- Every row of the dispatch table stands at the opcode that the encoder writes for its instruction: the encoder is
evaluated on each of the 45 rows, with its operand left open. -/
theorem dispatchTable_encodesAt : ∀ row ∈ dispatchTable, row.2.EncodesAt row.1 := by
  simp [dispatchTable, dispatchRow0, dispatchRow1, dispatchRow2, Entry.EncodesAt, Instr.fetchedBytes, encode,
    encodeWord, Instr.format, Format.fetched]

/-- A decoder is given the bytes of a list exactly where it is given the first one and, one offset on, the others. -/
theorem forall_getElem?_cons_iff {byteAt : Nat → Option Byte} {b : Byte} {bytes : List Byte} :
    (∀ k < (b :: bytes).length, byteAt k = (b :: bytes)[k]?) ↔
      byteAt 0 = some b ∧ ∀ k < bytes.length, byteAt (k + 1) = bytes[k]? :=
  Nat.forall_lt_succ_left

/-- The operand fetch completes an instruction only with the bytes that instruction is encoded in. -/
theorem fetchedBytes_of_decodeOperands {byteAt : Nat → Option Byte} {op : Byte} {entry : Entry} {i : Instr}
    (hop : byteAt 0 = some op) (henc : entry.EncodesAt op) (h : decodeOperands byteAt op entry = .instr i) :
    ∀ k < i.fetchedBytes.length, byteAt k = i.fetchedBytes[k]? := by
  cases entry
  case op j | stop2 j =>
    obtain rfl : j = i := DecodeResult.instr.inj h
    have hbytes : j.fetchedBytes = [op] := henc
    rw [hbytes, forall_getElem?_cons_iff]
    exact ⟨hop, by simp⟩
  case d8 mk | r8 mk =>
    cases h1 : byteAt 1 with
    | none => simp [decodeOperands, h1] at h
    | some b1 =>
      obtain rfl : mk b1 = i := by simpa [decodeOperands, h1] using h
      have hbytes : (mk b1).fetchedBytes = [op, b1] := henc b1
      rw [hbytes, forall_getElem?_cons_iff, forall_getElem?_cons_iff]
      exact ⟨hop, h1, by simp⟩
  case d16 mk | a16 mk =>
    cases h1 : byteAt 1 with
    | none => simp [decodeOperands, h1] at h
    | some b1 =>
      cases h2 : byteAt 2 with
      | none => simp [decodeOperands, h1, h2] at h
      | some b2 =>
        obtain rfl : mk (joinBytes b1 b2) = i := by simpa [decodeOperands, h1, h2] using h
        have hbytes : (mk (joinBytes b1 b2)).fetchedBytes = [op, b1, b2] := by simpa using henc (joinBytes b1 b2)
        rw [hbytes, forall_getElem?_cons_iff, forall_getElem?_cons_iff, forall_getElem?_cons_iff]
        exact ⟨hop, h1, h2, by simp⟩

/-- A decoder gives an instruction exactly where the bytes it is given begin with those fetched of it. -/
theorem decodeAt_eq_instr_iff {byteAt : Nat → Option Byte} {i : Instr} :
    decodeAt byteAt = .instr i ↔ ∀ k < i.fetchedBytes.length, byteAt k = i.fetchedBytes[k]? := by
  constructor
  · intro h
    obtain ⟨op, entry, hop, hentry, hoperands⟩ := decodeAt_instr h
    exact fetchedBytes_of_decodeOperands hop (dispatchTable_encodesAt _ (dispatch_mem hentry)) hoperands
  · exact decodeAt_fetchedBytes i

theorem decode_eq_instr_iff {bytes : List Byte} {i : Instr} :
    decode bytes = .instr i ↔ i.fetchedBytes <+: bytes := by
  rw [decode, decodeAt_eq_instr_iff, List.prefix_iff_getElem?]
  exact forall₂_congr fun k hk => by rw [List.getElem?_eq_getElem hk]

/-- Settles O2: decoding looks at the fetched bytes of an instruction and at no others, and every encoding begins with
them. -/
theorem decodeAndEncodeAgree : Obligations.DecodeAndEncodeAgree := by
  intro i
  constructor
  · intro rest
    have hfetched : i.fetchedBytes <+: encode i := List.take_prefix _ _
    exact decode_eq_instr_iff.mpr (hfetched.trans (List.prefix_append _ _))
  · intro bytes h
    exact decode_eq_instr_iff.mp h

/-- Settles O1: each byte string is a fetched encoding or begins with one, and the decoder evaluates on it. -/
theorem fewOpcodeBytesDecode : Obligations.FewOpcodeBytesDecode :=
  ⟨rfl, rfl, rfl, rfl, rfl, rfl, rfl⟩

end Sys2Proof
end

section
/-! The invariant, reset, and the states reached from it (10_state.md R27, R30, R36, R42, R43, R46). -/

namespace Sys2Proof.Machine

/-! ### The invariant over one step -/

/-- CYC fits its width once cycles have been charged, whatever it was before (R36). -/
theorem cycFits_of_cycAfter {s t : State} {n : Nat} (hparams : t.params = s.params) (hcyc : t.cyc = s.cycAfter n) :
    t.cycFits := by
  have hfits := cycAfter_fits s n
  unfold State.cycFits
  rw [hparams, hcyc]
  cases hw : s.params.cycleWidth with
  | unbounded => trivial
  | bits width => simpa only [hw] using hfits

theorem exec_keeps_memory_wf {i : Instr} {s t : State} (hwf : Memory.wf s.mem = true) (h : exec i s = .next t) :
    Memory.wf t.mem = true := by
  obtain hmem | ⟨addr, v, hmem⟩ | ⟨addr, addr', v, v', hmem⟩ := exec_mem h <;> rw [hmem]
  · exact hwf
  · exact Memory.wf_write addr v hwf
  · exact Memory.wf_write addr' v' (Memory.wf_write addr v hwf)

theorem exec_keeps_flagsLow {i : Instr} {s t : State} (hlow : s.f &&& 0x0F = 0) (h : exec i s = .next t) :
    t.f &&& 0x0F = 0 := by
  obtain hf | ⟨z, n, hf, c, hpack⟩ := exec_f h
  · rw [hf, hlow]
  · rw [hpack]
    exact packFlags_low z n hf c

/-- Executing an instruction in a RUNNING core keeps the invariant: FR stays empty, and RUN does not become FAULTED. -/
theorem exec_keeps_inv {i : Instr} {s t : State} (hrun : s.run = .running) (hs : s.Inv) (h : exec i s = .next t) :
    t.Inv := by
  obtain ⟨-, hfr, -, hparams⟩ := exec_keeps h
  obtain ⟨n, -, hcyc⟩ := exec_cyc h
  have hnone : ¬ t.fr.isSome = true := by
    rw [hfr, hs.record, hrun]
    decide
  exact {
    flagsLow := exec_keeps_flagsLow hs.flagsLow h
    cycFits := cycFits_of_cycAfter hparams hcyc
    record := iff_of_false hnone (exec_run_ne_faulted hrun h)
    memory := exec_keeps_memory_wf hs.memory h }

/-- Taking a fault writes the record and RUN together. -/
theorem takeFault_keeps_inv {s : State} (hs : s.Inv) (kind : Fault) (opcode : Option Byte) (index : Option Nat) :
    (s.takeFault kind opcode index).Inv :=
  { flagsLow := hs.flagsLow, cycFits := hs.cycFits, record := iff_of_true rfl rfl, memory := hs.memory }

/-- Settles O10: a step leaves a core that is not RUNNING as it is, executes an instruction, or takes a fault. -/
theorem everyStepKeepsTheInvariant : Obligations.EveryStepKeepsTheInvariant := by
  intro s t hs h
  obtain ⟨-, rfl⟩ | ⟨hrun, -, ⟨i, -, hexec⟩ | ⟨op, -, rfl⟩ | ⟨offset, op, -, rfl⟩⟩ := step_cases h
  · exact hs
  · exact exec_keeps_inv hrun hs hexec
  · exact takeFault_keeps_inv hs _ _ _
  · exact takeFault_keeps_inv hs _ _ _

/-! ### Reset -/

theorem readR8_afterReset (prog : List Byte) (initPc : Word) (params : Params) (r : Reg8) :
    (State.afterReset prog initPc params).readR8 r = 0 := by
  cases r <;> rfl

theorem readPair_afterReset (prog : List Byte) (initPc : Word) (params : Params) (rr : Pair) :
    (State.afterReset prog initPc params).readPair rr = 0 := by
  rw [State.readPair, readR8_afterReset, readR8_afterReset]
  rfl

theorem afterReset_inv (prog : List Byte) (initPc : Word) (params : Params) :
    (State.afterReset prog initPc params).Inv where
  flagsLow := BitVec.zero_and
  cycFits := by
    unfold State.cycFits
    split
    · trivial
    · exact Nat.two_pow_pos _
  record := iff_of_false Bool.false_ne_true nofun
  memory := rfl

theorem step_of_empty_program {s : State} (hrun : s.run = .running) (hprog : s.prog = []) :
    step s = .refused .emptyProgramMemory := by
  simp [step, hrun, hprog, wfProgram]

/-- Settles O14: both State.reset and the state of an accepted reset are State.afterReset. -/
theorem resetGivesTheResetState : Obligations.ResetGivesTheResetState := by
  refine ⟨?_, fun _ _ => rfl, ?_, fun s => step_of_empty_program⟩
  · intro prog initPc params hprog
    exact ⟨State.afterReset prog initPc params, resetWith_some.mpr ⟨hprog, rfl⟩, readR8_afterReset prog initPc params,
      readPair_afterReset prog initPc params, rfl, rfl, rfl, rfl, rfl, rfl, rfl⟩
  · rw [reset_eq_afterReset]
    exact ⟨readR8_afterReset _ _ _, readPair_afterReset _ _ _, rfl, rfl, rfl, rfl, rfl⟩

/-- Settles O11: an accepted reset gives State.afterReset, and so does State.reset, with nothing loaded. -/
theorem resetMeetsTheInvariant : Obligations.ResetMeetsTheInvariant := by
  constructor
  · rw [reset_eq_afterReset]
    exact afterReset_inv _ _ _
  · intro prog initPc params s h
    obtain ⟨-, rfl⟩ := resetWith_some.mp h
    exact afterReset_inv prog initPc params

/-! ### What every reachable state shares with the reset -/

/-- No step writes SP or the parameters (R30; 00_scope.md R8). -/
theorem step_sp_params {s t : State} (h : step s = .next t) : t.sp = s.sp ∧ t.params = s.params := by
  obtain ⟨-, rfl⟩ | ⟨-, -, ⟨i, -, hexec⟩ | ⟨op, -, rfl⟩ | ⟨offset, op, -, rfl⟩⟩ := step_cases h
  · exact ⟨rfl, rfl⟩
  · obtain ⟨hsp, -, -, hparams⟩ := exec_keeps hexec
    exact ⟨hsp, hparams⟩
  · exact ⟨rfl, rfl⟩
  · exact ⟨rfl, rfl⟩

theorem run_sp_params {k : Nat} {s t : State} (h : Sys2Proof.core.run k s = .next t) :
    t.sp = s.sp ∧ t.params = s.params := by
  refine run_keeps (P := fun u => u.sp = s.sp ∧ u.params = s.params) ?_ k ⟨rfl, rfl⟩ h
  intro u v ⟨husp, huparams⟩ hstep
  obtain ⟨hsp, hparams⟩ := step_sp_params hstep
  exact ⟨hsp.trans husp, hparams.trans huparams⟩

/-- Settles O12: the reset meets the invariant and every step keeps it; no step writes SP, the program or the
parameters. -/
theorem reachableStatesKeepSpAndInputs : Obligations.ReachableStatesKeepSpAndInputs := by
  rintro prog initPc params t ⟨s, k, hreset, hrun⟩
  obtain ⟨-, rfl⟩ := resetWith_some.mp hreset
  obtain ⟨hsp, hparams⟩ := run_sp_params hrun
  exact ⟨run_keeps everyStepKeepsTheInvariant k (afterReset_inv prog initPc params) hrun, hsp, run_prog hrun, hparams⟩

end Sys2Proof.Machine
end

section
/-! The outcomes of a step and the order of its faults (40_execution_cycle.md R120 to R127; 60_exceptions.md R301 to
R303, R306, R309). -/

namespace Sys2Proof

/-! ### How many operand bytes an entry takes -/

/-- The number of operand bytes fetched for an entry of the dispatch table (30_encoding.md R91). -/
def Entry.operandCount : Entry → Nat
  | .op _ | .stop2 _ => 0
  | .d8 _ | .r8 _ => 1
  | .d16 _ | .a16 _ => 2

theorem dispatchTable_operandCount :
    ∀ row ∈ dispatchTable, row.2.operandCount = Machine.operandBytes row.1 := by
  decide

theorem operandCount_of_dispatch {op : Byte} {entry : Entry} (hd : dispatch op = some entry) :
    entry.operandCount = Machine.operandBytes op :=
  dispatchTable_operandCount _ (dispatch_mem hd)

variable {byteAt : Nat → Option Byte} {op : Byte} {entry : Entry}

theorem decodeOperands_of_no_first (hcount : 1 ≤ entry.operandCount) (h1 : byteAt 1 = none) :
    decodeOperands byteAt op entry = .outOfBounds 1 (some op) := by
  cases entry
  case op | stop2 => exact absurd hcount (by decide : ¬ 1 ≤ 0)
  all_goals simp [decodeOperands, h1]

theorem decodeOperands_of_no_second (hcount : 2 ≤ entry.operandCount) (h1 : byteAt 1 ≠ none) (h2 : byteAt 2 = none) :
    decodeOperands byteAt op entry = .outOfBounds 2 (some op) := by
  obtain ⟨b1, h1⟩ := Option.ne_none_iff_exists'.mp h1
  cases entry
  case d16 | a16 => simp [decodeOperands, h1, h2]
  all_goals simp [Entry.operandCount] at hcount

theorem decodeOperands_of_all (h1 : 1 ≤ entry.operandCount → byteAt 1 ≠ none)
    (h2 : 2 ≤ entry.operandCount → byteAt 2 ≠ none) : ∃ i, decodeOperands byteAt op entry = .instr i := by
  cases entry
  case op i | stop2 i => exact ⟨i, rfl⟩
  case d8 mk | r8 mk =>
    obtain ⟨b1, h1⟩ := Option.ne_none_iff_exists'.mp (h1 (Nat.le_refl 1))
    simp [decodeOperands, h1]
  case d16 mk | a16 mk =>
    obtain ⟨b1, h1⟩ := Option.ne_none_iff_exists'.mp (h1 (Nat.le_succ 1))
    obtain ⟨b2, h2⟩ := Option.ne_none_iff_exists'.mp (h2 (Nat.le_refl 2))
    simp [decodeOperands, h1, h2]

end Sys2Proof

namespace Sys2Proof.Machine

/-! ### The first fault -/

theorem firstFault_of_pc_beyond {s : State} (h : s.fetchLimit ≤ s.pc.toNat) :
    s.firstFault = some (outOfBoundsRecord s.pc none s.pc.toNat) :=
  if_pos h

/-- With the opcode fetched, the chain of R306 asks for its entry and then for each operand byte in turn. -/
theorem firstFault_of_fetch {s : State} {op : Byte} (hop : s.fetch s.pc.toNat = some op) :
    s.firstFault =
      if Unadmitted op then some (unimplementedRecord s.pc op)
      else if 1 ≤ operandBytes op ∧ s.fetch (s.pc.toNat + 1) = none then
        some (outOfBoundsRecord s.pc (some op) (s.pc.toNat + 1))
      else if 2 ≤ operandBytes op ∧ s.fetch (s.pc.toNat + 2) = none then
        some (outOfBoundsRecord s.pc (some op) (s.pc.toNat + 2))
      else none := by
  obtain ⟨hlt, hbyte⟩ := fetch_some hop
  simp only [fetch_none_iff]
  simp only [State.firstFault, if_neg (Nat.not_le.mpr hlt), hbyte]

/-- Running a step at `s` either takes its first fault, or `s` has no fault to take and decodes an instruction. -/
def State.FollowsFirstFault (s : State) : Prop :=
  (∃ r, s.firstFault = some r ∧ stepRunning s = .next (s.faultedWith r)) ∨
    (s.firstFault = none ∧ ∃ i, s.decodeNext = .instr i)

/-- At an opcode with an entry, only an operand byte the entry asks for can fault, the first one before the second. -/
theorem followsFirstFault_of_dispatch {s : State} {op : Byte} {entry : Entry} (hop : s.fetch s.pc.toNat = some op)
    (hentry : dispatch op = some entry) : s.FollowsFirstFault := by
  have hadm : ¬ Unadmitted op := fun hun => by simp [(dispatch_eq_none_iff op).mpr hun] at hentry
  have hdec : s.decodeNext = decodeOperands (fun k => s.fetch (s.pc.toNat + k)) op entry :=
    decodeAt_of_dispatch_some hop hentry
  rw [State.FollowsFirstFault, firstFault_of_fetch hop, if_neg hadm, ← operandCount_of_dispatch hentry]
  by_cases h1 : 1 ≤ entry.operandCount ∧ s.fetch (s.pc.toNat + 1) = none
  · refine .inl ⟨_, if_pos h1, ?_⟩
    rw [stepRunning_of_outOfBounds (hdec.trans (decodeOperands_of_no_first h1.1 h1.2)), raiseOutOfBounds_eq]
  rw [if_neg h1]
  by_cases h2 : 2 ≤ entry.operandCount ∧ s.fetch (s.pc.toNat + 2) = none
  · obtain ⟨hcount, hsecond⟩ := h2
    have hfirst : s.fetch (s.pc.toNat + 1) ≠ none := fun hnone => h1 ⟨by omega, hnone⟩
    refine .inl ⟨_, if_pos ⟨hcount, hsecond⟩, ?_⟩
    rw [stepRunning_of_outOfBounds (hdec.trans (decodeOperands_of_no_second hcount hfirst hsecond)),
      raiseOutOfBounds_eq]
  · obtain ⟨i, hi⟩ := decodeOperands_of_all (byteAt := fun k => s.fetch (s.pc.toNat + k)) (op := op)
      (not_and.mp h1) (not_and.mp h2)
    exact .inr ⟨if_neg h2, i, hdec.trans hi⟩

/-- The fault a core takes is the first in the order of R306; where none applies, it decodes an instruction. -/
theorem followsFirstFault (s : State) : s.FollowsFirstFault := by
  cases hop : s.fetch s.pc.toNat with
  | none =>
    have hbeyond := fetch_none_iff.mp hop
    refine .inl ⟨_, firstFault_of_pc_beyond hbeyond, ?_⟩
    rw [stepRunning_of_outOfBounds (decodeNext_of_pc_beyond hbeyond), raiseOutOfBounds_zero_eq]
  | some op =>
    cases hentry : dispatch op with
    | none =>
      have hun := (dispatch_eq_none_iff op).mp hentry
      refine .inl ⟨_, (firstFault_of_fetch hop).trans (if_pos hun), ?_⟩
      rw [stepRunning_of_unimplemented (decodeAt_of_dispatch_none hop hentry), raiseUnimplemented_eq]
    | some entry => exact followsFirstFault_of_dispatch hop hentry

/-- Settles O5: the step of a RUNNING core with a program takes the first fault, or executes what it decoded. -/
theorem theStepFaultsAsItsFirstFaultSays : Obligations.TheStepFaultsAsItsFirstFaultSays := by
  intro s hrun hprog
  rw [step_running hrun ((wfProgram_iff s.prog).mpr hprog)]
  obtain ⟨r, hfirst, hstep⟩ | ⟨hfirst, i, hdec⟩ := followsFirstFault s
  · rw [hfirst]
    exact hstep
  · rw [hfirst, stepRunning_of_instr hdec]
    obtain ⟨t, hexec⟩ := exec_answers_next i s
    exact ⟨i, t, hdec, hexec, hexec, exec_run_ne_faulted hrun hexec⟩

/-! ### The other outcomes -/

/-- Settles O4: the bytes at PC decode to the instruction, and the step is its execution. -/
theorem stepRunsTheDecodedInstruction : Obligations.StepRunsTheDecodedInstruction := by
  intro i s hrun hbytes
  exact step_of_bytesAt hrun hbytes

/-- Settles O7: a step that ends in FAULTED takes a fault and does nothing else, and FAULTED is left by no step. -/
theorem faultChangesOnlyRunAndRecord : Obligations.FaultChangesOnlyRunAndRecord := by
  intro s t hrun hstep hfault
  have hterminal : ∀ k, Sys2Proof.core.run k t = .next t := core_run_terminal (by rw [hfault]; decide)
  obtain ⟨kind, opcode, index, rfl⟩ := step_faulted hrun hstep hfault
  exact ⟨rfl, ⟨_, takeFault_fr s kind opcode index, rfl, rfl⟩, hterminal⟩

/-- Settles O8: decoding gives an instruction, which is `stop` or not, or one of the two faults. -/
theorem stepOutcomeIsNextStopOrFault : Obligations.StepOutcomeIsNextStopOrFault := by
  intro s hrun hprog
  rw [step_running hrun ((wfProgram_iff s.prog).mpr hprog)]
  cases hdec : s.decodeNext with
  | instr i =>
    obtain ⟨t, hexec⟩ := exec_answers_next i s
    obtain ⟨-, hfr, -⟩ := exec_keeps hexec
    have ht := exec_run hexec
    refine ⟨t, (stepRunning_of_instr hdec).trans hexec, ?_⟩
    by_cases hi : i = .stop
    · rw [if_pos hi] at ht
      exact .inr (.inl ⟨ht, hfr, by rw [hi]⟩)
    · rw [if_neg hi, hrun] at ht
      exact .inl ⟨ht, hfr, i, hi, rfl⟩
  | unimplemented op => exact ⟨_, stepRunning_of_unimplemented hdec, .inr (.inr ⟨rfl, nofun⟩)⟩
  | outOfBounds offset op => exact ⟨_, stepRunning_of_outOfBounds hdec, .inr (.inr ⟨rfl, nofun⟩)⟩

/-- Settles O9: each step of such a core answers the state it is in. -/
theorem stoppedAndFaultedCoresDoNotStep : Obligations.StoppedAndFaultedCoresDoNotStep := by
  intro s k hrun
  exact core_run_terminal hrun k

end Sys2Proof.Machine
end

section
/-! The rotates of A (48_rotates.md R279 to R283). -/

namespace Sys2Proof.Machine

/-! ### The rules of the four rotates -/

/-- Bit 7 alone, moved to bit 0. -/
theorem bitByte_bit_seven (v : Byte) : bitByte (v.getLsbD 7) = v >>> 7 := by
  ext k hk
  rw [getElem_bitByte]
  obtain rfl | hpos : k = 0 ∨ 0 < k := by omega
  · simp
  · simp [Nat.ne_of_gt hpos, BitVec.getLsbD_of_ge v (7 + k) (by omega)]

/-- Bit 0 alone, moved to bit 7. -/
theorem bitByte_bit_zero (v : Byte) : bitByte (v.getLsbD 0) <<< 7 = v <<< 7 := by
  ext k hk
  obtain rfl | hlt : k = 7 ∨ k < 7 := by omega
  · simp
  · simp [hlt]

/-- RLC8 is the circular rotate left (R146). -/
theorem rlc8_eq_rotateLeft (v : Byte) : rlc8 v = (v.rotateLeft 1, v.getLsbD 7) := by
  rw [rlc8, bitByte_bit_seven, BitVec.rotateLeft_def]

/-- RRC8 is the circular rotate right (R147). -/
theorem rrc8_eq_rotateRight (v : Byte) : rrc8 v = (v.rotateRight 1, v.getLsbD 0) := by
  rw [rrc8, bitByte_bit_zero, BitVec.rotateRight_def]

theorem rl8_eq (v : Byte) (cin : Bool) :
    rl8 v cin = ((v <<< 1) ||| (if cin then 0x01 else 0x00), v.getLsbD 7) := rfl

theorem rr8_eq (v : Byte) (cin : Bool) :
    rr8 v cin = ((v >>> 1) ||| (if cin then 0x80 else 0x00), v.getLsbD 0) := by
  cases cin <;> rfl

/-- An instruction that executes as a rotate is one of 1 byte and 4 cycles that writes A, and F with Z, N and H clear. -/
theorem executesAs_of_rotateA {i : Instr} {rotated : State → Byte × Bool}
    (hexec : ∀ s, exec i s = rotateA (rotated s) s) :
    ExecutesAs i i.fetchedBytes (fun s =>
      { s with
        a := (rotated s).1
        f := packFlags false false false (rotated s).2
        pc := s.pc + 1
        cyc := s.cycAfter 4 }) := by
  refine executesAs_of_exec fun s => ?_
  rw [hexec, rotateA_next.mpr rfl, finish_eq, writeFlags_cycAfter, writeR8_cycAfter, writeFlags_pc, writeR8_pc]
  rfl

/-- Settles O35: each of the four executes as the rotate of A by its ALU operation. -/
theorem rotatesOfAClearZNH : Obligations.RotatesOfAClearZNH := by
  refine ⟨?_, ?_, ?_, ?_⟩
  · exact executesAs_of_rotateA (i := .rlca) (rotated := fun s => (s.a.rotateLeft 1, s.a.getLsbD 7))
      fun s => congrArg (rotateA · s) (rlc8_eq_rotateLeft s.a)
  · exact executesAs_of_rotateA (i := .rrca) (rotated := fun s => (s.a.rotateRight 1, s.a.getLsbD 0))
      fun s => congrArg (rotateA · s) (rrc8_eq_rotateRight s.a)
  · exact executesAs_of_rotateA (i := .rla)
      (rotated := fun s => ((s.a <<< 1) ||| (if s.f.getLsbD 4 then 0x01 else 0x00), s.a.getLsbD 7))
      fun s => congrArg (rotateA · s) (rl8_eq s.a s.flagC)
  · exact executesAs_of_rotateA (i := .rra)
      (rotated := fun s => ((s.a >>> 1) ||| (if s.f.getLsbD 4 then 0x80 else 0x00), s.a.getLsbD 0))
      fun s => congrArg (rotateA · s) (rr8_eq s.a s.flagC)

/-! ### Nine rotates through the carry -/

/-- A byte and a carry as a ring of nine bits: the byte's bits 0 to 7, and the carry as bit 8. -/
def ringBit (p : Byte × Bool) (k : Nat) : Bool := if k = 8 then p.2 else p.1.getLsbD k

theorem eq_of_ringBit_eq {p q : Byte × Bool} (h : ∀ k < 9, ringBit p k = ringBit q k) : p = q := by
  refine Prod.ext (BitVec.eq_of_getLsbD_eq fun k hk => ?_) (h 8 (by decide))
  simpa [ringBit, Nat.ne_of_lt hk] using h k (by omega)

/-- RL8 moves each bit of the ring up one place. -/
theorem ringBit_rl8 (p : Byte × Bool) {k : Nat} (hk : k < 9) :
    ringBit (rl8 p.1 p.2) k = ringBit p ((k + 8) % 9) := by
  obtain rfl | hlt : k = 8 ∨ k < 8 := by omega
  · rfl
  · rw [ringBit, if_neg (Nat.ne_of_lt hlt), getLsbD_rl8 _ _ hlt]
    obtain rfl | hpos : k = 0 ∨ 0 < k := by omega
    · rfl
    · have hmod : (k + 8) % 9 = k - 1 := by omega
      rw [if_neg (Nat.ne_of_gt hpos), hmod, ringBit, if_neg (by omega)]

/-- RR8 moves each bit of the ring down one place. -/
theorem ringBit_rr8 (p : Byte × Bool) {k : Nat} (hk : k < 9) :
    ringBit (rr8 p.1 p.2) k = ringBit p ((k + 1) % 9) := by
  obtain rfl | hlt : k = 8 ∨ k < 8 := by omega
  · rfl
  · rw [ringBit, if_neg (Nat.ne_of_lt hlt), getLsbD_rr8 _ _ hlt]
    obtain rfl | hlt7 : k = 7 ∨ k < 7 := by omega
    · rfl
    · have hmod : (k + 1) % 9 = k + 1 := by omega
      rw [if_neg (Nat.ne_of_lt hlt7), hmod, ringBit, if_neg (by omega)]

/-- Moving every bit of the ring by `d` places, `n` times, moves it by `n * d` places. -/
theorem ringBit_iterate {rotate : Byte × Bool → Byte × Bool} {d : Nat}
    (hrotate : ∀ p, ∀ k < 9, ringBit (rotate p) k = ringBit p ((k + d) % 9)) (n : Nat) (p : Byte × Bool) :
    ∀ k < 9, ringBit (rotate^[n] p) k = ringBit p ((k + n * d) % 9) := by
  induction n generalizing p with
  | zero =>
    intro k hk
    rw [Function.iterate_zero_apply, Nat.zero_mul, Nat.add_zero, Nat.mod_eq_of_lt hk]
  | succ n ih =>
    intro k hk
    rw [Function.iterate_succ_apply, ih (rotate p) k hk, hrotate p _ (Nat.mod_lt _ (by decide)), Nat.mod_add_mod,
      Nat.add_assoc, ← Nat.succ_mul]

/-- Nine moves by any number of places go round the ring. -/
theorem iterate_nine_of_ringBit {rotate : Byte × Bool → Byte × Bool} {d : Nat}
    (hrotate : ∀ p, ∀ k < 9, ringBit (rotate p) k = ringBit p ((k + d) % 9)) (p : Byte × Bool) :
    rotate^[9] p = p := by
  refine eq_of_ringBit_eq fun k hk => ?_
  rw [ringBit_iterate hrotate 9 p k hk, Nat.add_mul_mod_self_left, Nat.mod_eq_of_lt hk]

/-- A and the C flag, which the rotates through the carry turn as one ring. -/
def State.carryRing (s : State) : Byte × Bool := (s.a, s.flagC)

/-- A rotate leaves in A and C the two results of its ALU operation. -/
theorem rotateA_carryRing (rotated : Byte × Bool) (s : State) :
    ∃ t, rotateA rotated s = .next t ∧ t.carryRing = rotated :=
  ⟨_, rfl, by simp [State.carryRing]⟩

/-- An instruction that turns A and C by a function of them turns them that many times when executed in a row. -/
theorem execTimes_carryRing {i : Instr} {rotate : Byte × Bool → Byte × Bool}
    (hexec : ∀ s, ∃ t, exec i s = .next t ∧ t.carryRing = rotate s.carryRing) (n : Nat) (s : State) :
    ∃ t, execTimes n i s = .next t ∧ t.carryRing = rotate^[n] s.carryRing := by
  induction n generalizing s with
  | zero => exact ⟨s, rfl, rfl⟩
  | succ n ih =>
    obtain ⟨u, hu, huring⟩ := hexec s
    obtain ⟨t, ht, htring⟩ := ih u
    refine ⟨t, ?_, ?_⟩
    · rw [execTimes, hu]
      exact ht
    · rw [htring, huring, Function.iterate_succ_apply]

/-- Settles O21: either rotate moves each bit of the ring of A and C by one place, up or down, so nine go round. -/
theorem nineRotatesThroughCarryRestore : Obligations.NineRotatesThroughCarryRestore := by
  intro s
  constructor
  · obtain ⟨t, ht, hring⟩ := execTimes_carryRing (i := .rla) (rotate := fun p => rl8 p.1 p.2)
      (fun s => rotateA_carryRing _ s) 9 s
    rw [iterate_nine_of_ringBit (fun p _ => ringBit_rl8 p)] at hring
    exact ⟨t, ht, congrArg Prod.fst hring, congrArg Prod.snd hring⟩
  · obtain ⟨t, ht, hring⟩ := execTimes_carryRing (i := .rra) (rotate := fun p => rr8 p.1 p.2)
      (fun s => rotateA_carryRing _ s) 9 s
    rw [iterate_nine_of_ringBit (fun p _ => ringBit_rr8 p)] at hring
    exact ⟨t, ht, congrArg Prod.fst hring, congrArg Prod.snd hring⟩

end Sys2Proof.Machine
end

section
/-! The frame of each family of instructions and the table of flag effects (10_state.md R24, R29). -/

namespace Sys2Proof.Machine

/-! ### The registers each shared operation leaves -/

/-- Every register but F and the listed ones is as before. -/
def SameRegsBut (regs : List Reg8) (s t : State) : Prop :=
  ∀ r, r ≠ .f → r ∉ regs → t.readR8 r = s.readR8 r

theorem sameRegsBut_writeR8 (s : State) (r : Reg8) (v : Byte) : SameRegsBut [r] s (s.writeR8 r v) := by
  intro r' _ hr
  rw [readR8_writeR8, if_neg (List.ne_of_not_mem_cons hr)]

theorem sameRegsBut_writePair (s : State) (rr : Pair) (v : Word) :
    SameRegsBut [rr.hi, rr.lo] s (s.writePair rr v) := by
  intro r _ hr
  obtain ⟨hhi, hlo⟩ : r ≠ rr.hi ∧ r ≠ rr.lo := by simpa using hr
  rw [readR8_writePair, if_neg hlo, if_neg hhi]

/-- Writing F as one value leaves the other registers, whatever was written before. -/
theorem SameRegsBut.writeFlags {regs : List Reg8} {s t : State} (h : SameRegsBut regs s t) (z n hf c : Bool) :
    SameRegsBut regs s (t.writeFlags z n hf c) := by
  intro r hrf hr
  rw [readR8_writeFlags, if_neg hrf, h r hrf hr]

/-- The end of an instruction writes no register. -/
theorem SameRegsBut.finish {regs : List Reg8} {s t : State} (h : SameRegsBut regs s t) (len n : Nat) :
    SameRegsBut regs s (t.finish len n) := by
  intro r hrf hr
  rw [readR8_finish, h r hrf hr]

/-- Updates in a row leave what neither of them writes. -/
theorem SameRegsBut.trans {regs regs' : List Reg8} {s t u : State} (h : SameRegsBut regs s t)
    (h' : SameRegsBut regs' t u) : SameRegsBut (regs ++ regs') s u := by
  intro r hrf hr
  rw [List.mem_append, not_or] at hr
  rw [h' r hrf hr.2, h r hrf hr.1]

section

variable {r : Reg8} {rr : Pair} {s t : State}

theorem loadR8_sameRegsBut {d8 : Byte} (h : loadR8 r d8 s = .next t) : SameRegsBut [r] s t := by
  rw [loadR8_next.mp h]
  exact (sameRegsBut_writeR8 s r d8).finish 2 8

theorem loadPair_sameRegsBut {d16 : Word} (h : loadPair rr d16 s = .next t) : SameRegsBut [rr.hi, rr.lo] s t := by
  rw [loadPair_next.mp h]
  exact (sameRegsBut_writePair s rr d16).finish 3 12

theorem incPair_sameRegsBut (h : incPair rr s = .next t) : SameRegsBut [rr.hi, rr.lo] s t := by
  rw [incPair_next.mp h]
  exact (sameRegsBut_writePair s rr _).finish 1 8

theorem decPair_sameRegsBut (h : decPair rr s = .next t) : SameRegsBut [rr.hi, rr.lo] s t := by
  rw [decPair_next.mp h]
  exact (sameRegsBut_writePair s rr _).finish 1 8

theorem incR8_sameRegsBut (h : incR8 r s = .next t) : SameRegsBut [r] s t := by
  rw [incR8_next.mp h]
  exact ((sameRegsBut_writeR8 s r _).writeFlags _ _ _ _).finish 1 4

theorem decR8_sameRegsBut (h : decR8 r s = .next t) : SameRegsBut [r] s t := by
  rw [decR8_next.mp h]
  exact ((sameRegsBut_writeR8 s r _).writeFlags _ _ _ _).finish 1 4

theorem addHl_sameRegsBut (h : addHl rr s = .next t) : SameRegsBut [.h, .l] s t := by
  rw [addHl_next.mp h]
  exact ((sameRegsBut_writePair s .hl _).writeFlags _ _ _ _).finish 1 8

theorem rotateA_sameRegsBut {rotated : Byte × Bool} (h : rotateA rotated s = .next t) : SameRegsBut [.a] s t := by
  rw [rotateA_next.mp h]
  exact ((sameRegsBut_writeR8 s .a _).writeFlags _ _ _ _).finish 1 4

theorem storeA_sameRegsBut (h : storeA rr s = .next t) : SameRegsBut [] s t := by
  rw [storeA_next.mp h]
  intro r _ _
  rw [readR8_finish, readR8_memWrite]

theorem loadA_sameRegsBut (h : loadA rr s = .next t) : SameRegsBut [.a] s t := by
  rw [loadA_next.mp h]
  exact (sameRegsBut_writeR8 (s.memRead (s.readPair rr)).2 .a _).finish 1 8

theorem readR8_takeJump (s : State) (r8 : Byte) (r : Reg8) : (s.takeJump r8).readR8 r = s.readR8 r := by
  rw [State.takeJump, readR8_tick, readR8_jump]

/-- `nop`, `stop` and the jumps write no register, F included. -/
theorem readR8_of_control {i : Instr} (hi : i.family ∈ [.noOp, .stop, .jump]) (h : exec i s = .next t) (r : Reg8) :
    t.readR8 r = s.readR8 r := by
  cases exec_effect h
  case nop | noJump => exact readR8_finish s _ _ r
  case stop => rw [readR8_stopCore, readR8_finish]
  case jump r8 _ => exact readR8_takeJump s r8 r
  case storeAInc hinstr | loadAInc hinstr | storeSp hinstr => simp [hinstr, Instr.family] at hi
  all_goals simp [*] at hi

/-- An instruction leaves every register but F and its destinations (R24). -/
theorem exec_sameRegsBut {i : Instr} (h : exec i s = .next t) : SameRegsBut (destRegs i) s t := by
  cases i
  case ldBD8 | ldCD8 | ldDD8 | ldED8 | ldHD8 | ldLD8 => exact loadR8_sameRegsBut h
  case incB | incC | incD | incE | incH | incL => exact incR8_sameRegsBut h
  case decB | decC | decD | decE | decH | decL => exact decR8_sameRegsBut h
  case addHlBc | addHlDe | addHlHl => exact addHl_sameRegsBut h
  case rlca | rrca | rla | rra => exact rotateA_sameRegsBut h
  case ldIndBcA | ldIndDeA => exact storeA_sameRegsBut h
  case ldAIndBc | ldAIndDe => exact loadA_sameRegsBut h
  case ldBcD16 => exact loadPair_sameRegsBut (rr := .bc) h
  case ldDeD16 => exact loadPair_sameRegsBut (rr := .de) h
  case ldHlD16 => exact loadPair_sameRegsBut (rr := .hl) h
  case incBc => exact incPair_sameRegsBut (rr := .bc) h
  case incDe => exact incPair_sameRegsBut (rr := .de) h
  case incHl => exact incPair_sameRegsBut (rr := .hl) h
  case decBc => exact decPair_sameRegsBut (rr := .bc) h
  case decDe => exact decPair_sameRegsBut (rr := .de) h
  case decHl => exact decPair_sameRegsBut (rr := .hl) h
  case ldIndHlIncA =>
    rw [execLdIndHlIncA_next.mp h]
    exact (sameRegsBut_writePair (s.memWrite (s.readPair .hl) s.a) .hl _).finish 1 8
  case ldAIndHlInc =>
    rw [execLdAIndHlInc_next.mp h]
    exact ((sameRegsBut_writeR8 (s.memRead (s.readPair .hl)).2 .a _).trans (sameRegsBut_writePair _ .hl _)).finish 1 8
  case ldIndA16Sp a16 =>
    rw [execLdIndA16Sp_next.mp h]
    intro r _ _
    rw [readR8_finish, readR8_memWrite, readR8_memWrite]
  case nop | stop | jrR8 | jrNzR8 =>
    intro r _ _
    exact readR8_of_control (by simp [Instr.family]) h r

end

/-! ### The rest of the state -/


theorem family_eq_stop_iff {i : Instr} : i.family = .stop ↔ i = .stop := by
  cases i <;> simp [Instr.family]

section

variable {i : Instr} {s t : State}

theorem exec_run_of_no_stop (hi : i.family ∉ [.stop]) (h : exec i s = .next t) : t.run = s.run :=
  (exec_run h).trans (if_neg fun hstop => hi (List.mem_singleton.mpr (family_eq_stop_iff.mpr hstop)))

/-- Only an indirect load asks the data bus for a byte. -/
theorem exec_draws_of_no_read (hi : i.family ∉ [.loadA]) (h : exec i s = .next t) : t.draws = s.draws := by
  cases exec_effect h
  case loadA hfam => simp [hfam] at hi
  case loadAInc hinstr => simp [hinstr, Instr.family] at hi
  all_goals simp [takeJump_eq]

/-- Only a storing instruction changes the bytes behind the bus. -/
theorem exec_mem_of_no_store (hi : i.family ∉ [.storeA, .storeSp]) (h : exec i s = .next t) : t.mem = s.mem := by
  cases exec_effect h
  case storeA hfam => simp [hfam] at hi
  case storeAInc hinstr | storeSp hinstr => simp [hinstr, Instr.family] at hi
  all_goals simp [takeJump_eq]

theorem sameBytes_of_no_store (hi : i.family ∉ [.storeA, .storeSp]) (h : exec i s = .next t) : SameBytes s t := by
  intro addr
  rw [exec_mem_of_no_store hi h]

/-- A store leaves the byte at every address but those it writes. -/
theorem exec_read_of_not_stored {addr : Nat} (haddr : ∀ a ∈ storedAddrs i s, addr ≠ a.toNat) (h : exec i s = .next t) :
    Memory.read t.mem addr = Memory.read s.mem addr := by
  cases i
  case ldIndBcA =>
    rw [(storeA_next (rr := .bc)).mp h]
    exact Memory.read_write_other (haddr _ (List.mem_singleton_self _))
  case ldIndDeA =>
    rw [(storeA_next (rr := .de)).mp h]
    exact Memory.read_write_other (haddr _ (List.mem_singleton_self _))
  case ldIndHlIncA =>
    rw [execLdIndHlIncA_next.mp h]
    exact Memory.read_write_other (haddr _ (List.mem_singleton_self _))
  case ldIndA16Sp a16 =>
    obtain ⟨hfirst, hsecond⟩ : addr ≠ a16.toNat ∧ addr ≠ (a16 + 1).toNat := by simpa [storedAddrs] using haddr
    rw [execLdIndA16Sp_mem h, Memory.read_write_other hsecond, Memory.read_write_other hfirst]
  all_goals rw [exec_mem_of_no_store (by simp [Instr.family]) h]

/-! ### The flags -/

theorem writePair_f (s : State) {rr : Pair} (v : Word) (hr : rr ≠ .af) : (s.writePair rr v).f = s.f := by
  cases rr
  case af => exact absurd rfl hr
  all_goals rfl

/-- The families that write F. -/
abbrev flagWriters : List Family := [.incR8, .decR8, .addHl, .rotate]

theorem exec_f_of_no_flags (hi : i.family ∉ flagWriters) (h : exec i s = .next t) : t.f = s.f := by
  cases exec_effect h
  case incR8 hfam _ | decR8 hfam _ | addHl hfam | rotate hfam => simp [hfam] at hi
  case loadR8 r d8 _ hr => simp [hr]
  case loadPair rr _ _ hr | incPair rr _ hr | decPair rr _ hr => exact writePair_f s _ hr
  all_goals rfl

theorem writeCounted_flagsLow (s : State) (r : Reg8) (res : Byte) (n half : Bool) :
    (s.writeCounted r res n half).f &&& 0x0F = 0 :=
  packFlags_low _ _ _ _

theorem exec_flagsLow_of_flags (hi : i.family ∈ flagWriters) (h : exec i s = .next t) : t.f &&& 0x0F = 0 := by
  cases exec_effect h
  case incR8 | decR8 | addHl | rotate => exact packFlags_low _ _ _ _
  case stop hinstr | storeAInc hinstr | loadAInc hinstr | storeSp hinstr => simp [hinstr, Instr.family] at hi
  all_goals simp [*] at hi

end

/-- Settles O41: a flag-writing family packs F from the flags of its table row; every other family leaves F. -/
theorem flagEffectsOfEveryInstruction : Obligations.FlagEffectsOfEveryInstruction := by
  intro i s t h
  by_cases hi : i.family ∈ flagWriters
  · cases exec_effect h
    case incR8 r hfam _ | decR8 r hfam _ =>
      rw [hfam]
      obtain ⟨-, hn, -, hc⟩ := flags_writeCounted s r _ _ _
      exact ⟨hn, hc, writeCounted_flagsLow s r _ _ _⟩
    case addHl rr hfam => simp [hfam]
    case rotate res hfam => simp [hfam]
    case stop hinstr | storeAInc hinstr | loadAInc hinstr | storeSp hinstr => simp [hinstr, Instr.family] at hi
    all_goals simp [*] at hi
  · have hkept := exec_f_of_no_flags hi h
    cases hfam : i.family
    case incR8 | decR8 | addHl | rotate => simp [hfam] at hi
    all_goals exact hkept

theorem exec_flagC_of_count {i : Instr} {s t : State} (hi : i.family ∈ [.incR8, .decR8])
    (h : exec i s = .next t) : t.flagC = s.flagC := by
  have hflags := flagEffectsOfEveryInstruction i s t h
  obtain hfam | hfam : i.family = .incR8 ∨ i.family = .decR8 := by simpa using hi
  all_goals
    rw [hfam] at hflags
    obtain ⟨-, hc, -⟩ := hflags
    exact hc

/-! ### The frames -/

/-- Families told apart by name: one of the first list is none of the second. -/
theorem family_not_mem {i : Instr} {families others : List Family} (hi : i.family ∈ families)
    (hdisjoint : ∀ fam ∈ families, fam ∉ others := by decide) : i.family ∉ others :=
  hdisjoint _ hi

/-- Settles O36: none of these families writes F, stops, or uses the data bus. -/
theorem frameOfLoadsAndPairCounts : Obligations.FrameOfLoadsAndPairCounts := by
  intro i s t hi h
  exact ⟨exec_sameRegsBut h, exec_f_of_no_flags (family_not_mem hi) h, exec_keeps h,
    exec_run_of_no_stop (family_not_mem hi) h, exec_busLog_of_no_bus (family_not_mem hi) h,
    exec_draws_of_no_read (family_not_mem hi) h, sameBytes_of_no_store (family_not_mem hi) h⟩

/-- Settles O37: the flags are those of the table, and none of these families stops or uses the data bus. -/
theorem frameOfFlagWriters : Obligations.FrameOfFlagWriters := by
  intro i s t hi h
  exact ⟨exec_sameRegsBut h, fun hcount => exec_flagC_of_count hcount h, exec_flagsLow_of_flags hi h, exec_keeps h,
    exec_run_of_no_stop (family_not_mem hi) h, exec_busLog_of_no_bus (family_not_mem hi) h,
    exec_draws_of_no_read (family_not_mem hi) h, sameBytes_of_no_store (family_not_mem hi) h⟩

/-- Settles O38: a store leaves F, asks the data bus for nothing, and writes at its own addresses alone. -/
theorem frameOfStores : Obligations.FrameOfStores := by
  intro i s t hi h
  exact ⟨exec_sameRegsBut h, exec_f_of_no_flags (family_not_mem hi) h, exec_keeps h,
    exec_run_of_no_stop (family_not_mem hi) h, exec_draws_of_no_read (family_not_mem hi) h,
    fun addr haddr => exec_read_of_not_stored haddr h⟩

/-- Settles O39: a load reads the data bus and never writes it. -/
theorem frameOfIndirectLoads : Obligations.FrameOfIndirectLoads := by
  intro i s t hload h
  have hi : i.family ∈ [.loadA] := List.mem_singleton.mpr hload
  exact ⟨exec_sameRegsBut h, exec_f_of_no_flags (family_not_mem hi) h, exec_keeps h,
    exec_run_of_no_stop (family_not_mem hi) h, sameBytes_of_no_store (family_not_mem hi) h⟩

/-- Settles O40: none of these families writes a register or uses the data bus, and `stop` alone changes RUN. -/
theorem frameOfNopStopAndJumps : Obligations.FrameOfNopStopAndJumps := by
  intro i s t hi h
  have hrun : t.run = if i.family = .stop then .stopped else s.run := by
    simp only [exec_run h, family_eq_stop_iff]
  exact ⟨readR8_of_control hi h, exec_keeps h, hrun, exec_busLog_of_no_bus (family_not_mem hi) h,
    exec_draws_of_no_read (family_not_mem hi) h, sameBytes_of_no_store (family_not_mem hi) h⟩

end Sys2Proof.Machine
end

section
/-! The data bus and ProgramMemory apart (20_memory.md R60, R63, R79; 92_eei_decisions.md D19). -/

namespace Sys2Proof.Machine

/-! ### The flat bus -/

theorem busReply_of_flat {s : State} (hbus : s.params.bus = .flat) (addr : Word) :
    s.busReply addr = Memory.read s.mem addr.toNat := by
  simp [State.busReply, hbus]

theorem drawsAfterRead_of_flat {s : State} (hbus : s.params.bus = .flat) : s.drawsAfterRead = s.draws := by
  simp [State.drawsAfterRead, hbus]

theorem busReply_of_anyByte {s : State} (hbus : s.params.bus = .anyByte) (addr : Word) :
    s.busReply addr = Config.busAnswer s.draws s.busLog addr := by
  simp [State.busReply, hbus]

theorem drawsAfterRead_of_anyByte {s : State} (hbus : s.params.bus = .anyByte) :
    s.drawsAfterRead = s.draws + 1 := by
  simp [State.drawsAfterRead, hbus]

/-- Settles O42: the byte answered and the count of draws are decided by BUS alone. -/
theorem busReadsAreOpenOrFlat : Obligations.BusReadsAreOpenOrFlat := by
  intro s addr
  constructor
  · intro hbus
    rw [State.memRead, busReply_of_anyByte hbus, drawsAfterRead_of_anyByte hbus]
  · intro hbus
    rw [State.memRead, busReply_of_flat hbus, drawsAfterRead_of_flat hbus]

theorem loadA_a_of_flat {rr : Pair} {s t : State} (hbus : s.params.bus = .flat) (h : loadA rr s = .next t) :
    t.a = Memory.read s.mem (s.readPair rr).toNat := by
  rw [loadA_next.mp h, finish_a, writeR8_a, if_pos rfl, busReply_of_flat hbus]

/-- A byte read back after one write to a memory in canonical form. -/
theorem Memory.read_write {m : Memory} (hwf : Memory.wf m = true) (addr addr' : Word) (v : Byte) :
    Memory.read (Memory.write m addr.toNat v) addr'.toNat = if addr' = addr then v else Memory.read m addr'.toNat := by
  split
  · rename_i heq
    rw [heq, Memory.read_write_same hwf]
  · rename_i hne
    exact Memory.read_write_other (mt BitVec.eq_of_toNat_eq hne)

/-- Settles O43: the store leaves DE and BUS, and the load reads the memory after its write. -/
theorem flatBusReturnsTheLastByteWritten : Obligations.FlatBusReturnsTheLastByteWritten := by
  intro s t u v hbus hwf hstore hload hload'
  obtain rfl := (storeA_next (rr := .bc)).mp hstore
  have hu : u.a = Memory.read (Memory.write s.mem (s.readPair .bc).toNat s.a) (s.readPair .de).toNat :=
    loadA_a_of_flat (rr := .de) (s := (s.memWrite (s.readPair .bc) s.a).finish 1 8) hbus hload
  have hv : v.a = Memory.read s.mem (s.readPair .de).toNat := loadA_a_of_flat (rr := .de) hbus hload'
  rw [hu, hv, Memory.read_write hwf]

/-! ### No meaning reads ProgramMemory -/

/-- Settles O52: in every arm but that of `jr nz` both sides are one chain of updates that names no program; `jr nz`
decides on Z first. -/
theorem noMeaningReadsProgramMemory : Obligations.NoMeaningReadsProgramMemory := by
  intro i s t p h
  cases i
  case jrNzR8 r8 =>
    rw [execJrNzR8_next] at h
    split at h <;> rename_i hz <;> subst h
    · exact execJrNzR8_next.mpr (if_pos hz).symm
    · exact execJrNzR8_next.mpr (if_neg hz).symm
  all_goals
    obtain rfl := Host.Outcome.next.inj h
    rfl

end Sys2Proof.Machine
end

section
/-! Runs of the core: how CYC grows (10_state.md R35), and the jump to itself (47_relative_jumps.md R270, R271). -/

namespace Sys2Proof.Machine

theorem cycAfter_of_unbounded {s : State} (hwidth : s.params.cycleWidth = .unbounded) (n : Nat) :
    s.cycAfter n = s.cyc + n := by
  simp [State.cycAfter, hwidth]

/-! ### CYC never decreases -/

/-- A step charges at most 20 cycles, the cost of the SP store (R338), and a step that executes nothing charges none. -/
theorem step_cyc_bounds {s t : State} (hwidth : s.params.cycleWidth = .unbounded) (h : step s = .next t) :
    s.cyc ≤ t.cyc ∧ t.cyc ≤ s.cyc + 20 := by
  obtain ⟨-, rfl⟩ | ⟨-, -, ⟨i, -, hexec⟩ | ⟨op, -, rfl⟩ | ⟨offset, op, -, rfl⟩⟩ := step_cases h
  · omega
  · obtain ⟨n, hn, hcyc⟩ := exec_cyc hexec
    rw [hcyc, cycAfter_of_unbounded hwidth]
    omega
  · exact ⟨Nat.le_refl _, Nat.le_add_right _ _⟩
  · exact ⟨Nat.le_refl _, Nat.le_add_right _ _⟩

/-- Settles O48: by induction on the number of steps; no step changes the width. -/
theorem cycNeverDecreases : Obligations.CycNeverDecreases := by
  intro k
  induction k with
  | zero =>
    intro s t _ h
    obtain rfl : s = t := Host.Outcome.next.inj h
    exact ⟨Nat.le_refl _, Nat.le_add_right _ _⟩
  | succ k ih =>
    intro s t hwidth h
    obtain ⟨u, hstep, hrun⟩ := core_run_succ h
    obtain ⟨-, hparams⟩ := step_sp_params hstep
    obtain ⟨hlow, hhigh⟩ := step_cyc_bounds hwidth hstep
    obtain ⟨ihlow, ihhigh⟩ := ih u t (hparams ▸ hwidth) hrun
    omega

/-! ### The jump to itself -/

/-- A relative jump with displacement byte 0x00 stands at PC, and it will be taken. -/
def State.AtSelfJump (s : State) : Prop :=
  s.BytesAt [0x18, 0x00] ∨ (s.BytesAt [0x20, 0x00] ∧ s.flagZ = false)

theorem jrDisplacement_zero (signed : Bool) : jrDisplacement signed 0x00 = 0 := by
  cases signed <;> rfl

/-- A taken jump with displacement byte 0x00 only charges its cycles. -/
theorem takeJump_zero {s : State} (hwidth : s.params.cycleWidth = .unbounded) :
    s.takeJump 0x00 = { s with cyc := s.cyc + 12 } := by
  rw [takeJump_eq, jrDisplacement_zero, add_zero, cycAfter_of_unbounded hwidth]

theorem step_of_selfJump {s : State} (hrun : s.run = .running) (hwidth : s.params.cycleWidth = .unbounded)
    (hself : s.AtSelfJump) : step s = .next { s with cyc := s.cyc + 12 } := by
  rw [← takeJump_zero hwidth]
  obtain hjr | ⟨hjrNz, hz⟩ := hself
  · rw [step_of_bytesAt (i := .jrR8 0x00) hrun hjr, execJrR8_next]
  · rw [step_of_bytesAt (i := .jrNzR8 0x00) hrun hjrNz, execJrNzR8_next, hz, if_neg Bool.false_ne_true]

/-- Settles O50: by induction on the number of steps; after each one the core is at the same jump, 12 cycles later. -/
theorem selfJumpLoopsForever : Obligations.SelfJumpLoopsForever := by
  intro s k hrun hwidth (hself : s.AtSelfJump)
  induction k generalizing s with
  | zero => rfl
  | succ k ih =>
    have hnext : State.AtSelfJump { s with cyc := s.cyc + 12 } := hself
    rw [core_run_next (step_of_selfJump hrun hwidth hself), ih { s with cyc := s.cyc + 12 } hrun hwidth hnext,
      Nat.add_assoc, Nat.add_comm 12, Nat.mul_succ]

end Sys2Proof.Machine
end
